-- ==== Sys2Proof/Word.lean ====
section
/-! DEFINITION. The word types of the CORE (spec/00_scope.md R4, R6): every value is unsigned, bit 0 is the least
significant bit. -/

namespace Sys2Proof

/-- A byte: a general register, a timer, a memory cell (R21, R27, R28, R32). -/
abbrev Byte := BitVec 8

/-- A 16-bit word: `I`, `PC`, a stack entry, an instruction word (R23, R24, R26, R70). -/
abbrev Word := BitVec 16

/-- A 4-bit field: the fields `n`, the low nibble, a key code, a stack slot number (R72, R182). -/
abbrev Nibble := BitVec 4

/-- A register index, the fields `x` and `y`: 4 bits, so every value names a register (R21, R72). -/
abbrev Reg := BitVec 4

/-- A 12-bit address, the field `nnn` (R72). -/
abbrev Addr12 := BitVec 12

end Sys2Proof
end

