-- ==== Sys2Proof/Syntax.lean ====
section
/-! DEFINITION. The instructions: one constructor per row of spec/opcode_table.json, in its order (30_encoding.md R76).
Fields named `ign` hold the bits the decoder ignores (R77): no meaning reads them; they are kept so that distinct words
are distinct instructions and `encode` inverts `decodeWord`. DESIGN CHOICE, safe (log 24). -/

namespace Sys2Proof

inductive Instr where
  /-- `00E0` CLS (R90). -/
  | cls
  /-- `00EE` RET (R91). -/
  | ret
  /-- `0nnn` NOP0, every other word of family 0 (R92). -/
  | nop0 (nnn : Addr12)
  /-- `1nnn` JP nnn (R93). -/
  | jp (nnn : Addr12)
  /-- `2nnn` CALL nnn (R94). -/
  | call (nnn : Addr12)
  /-- `3xkk` SE Vx, kk (R100). -/
  | seImm (x : Reg) (kk : Byte)
  /-- `4xkk` SNE Vx, kk (R101). -/
  | sneImm (x : Reg) (kk : Byte)
  /-- `5xy_` SE Vx, Vy, low nibble ignored (R102, R77). -/
  | seReg (x y : Reg) (ign : Nibble)
  /-- `6xkk` LD Vx, kk (R103). -/
  | ldImm (x : Reg) (kk : Byte)
  /-- `7xkk` ADD Vx, kk (R104). -/
  | addImm (x : Reg) (kk : Byte)
  /-- `8xy0` LD Vx, Vy (R111). -/
  | ldReg (x y : Reg)
  /-- `8xy1` OR Vx, Vy (R112). -/
  | orReg (x y : Reg)
  /-- `8xy2` AND Vx, Vy (R113). -/
  | andReg (x y : Reg)
  /-- `8xy3` XOR Vx, Vy (R114). -/
  | xorReg (x y : Reg)
  /-- `8xy4` ADD Vx, Vy (R115). -/
  | addReg (x y : Reg)
  /-- `8xy5` SUB Vx, Vy (R116). -/
  | sub (x y : Reg)
  /-- `8x_6` SHR Vx, the `y` field ignored (R117, R77). -/
  | shr (x : Reg) (ign : Nibble)
  /-- `8xy7` SUBN Vx, Vy (R118). -/
  | subn (x y : Reg)
  /-- `8xyE` SHL Vx, Vy (R119). -/
  | shl (x y : Reg)
  /-- `8__n` NOP8, `n` in 8, 9, A, B, C, D, F (R120). -/
  | nop8 (ignX ignY : Nibble) (n : Nibble)
  /-- `9xy_` SNE Vx, Vy, low nibble ignored (R125, R77). -/
  | sneReg (x y : Reg) (ign : Nibble)
  /-- `Annn` LD I, nnn (R126). -/
  | ldI (nnn : Addr12)
  /-- `Bnnn` JP V0, nnn (R127). -/
  | jpV0 (nnn : Addr12)
  /-- `Cxkk` RND Vx, kk (R128). -/
  | rnd (x : Reg) (kk : Byte)
  /-- `Dxyn` DRW Vx, Vy, n (R130). -/
  | drw (x y : Reg) (n : Nibble)
  /-- `Ex9E` SKP Vx (R140). -/
  | skp (x : Reg)
  /-- `ExA1` SKNP Vx (R141). -/
  | sknp (x : Reg)
  /-- `E_kk` NOPE, `kk` other than 9E, A1 (R142). -/
  | nope (ignX : Nibble) (kk : Byte)
  /-- `Fx07` LD Vx, DT (R150). -/
  | ldVxDt (x : Reg)
  /-- `Fx0A` LD Vx, K (R151). -/
  | ldVxK (x : Reg)
  /-- `Fx15` LD DT, Vx (R152). -/
  | ldDtVx (x : Reg)
  /-- `Fx18` LD ST, Vx (R153). -/
  | ldStVx (x : Reg)
  /-- `Fx1E` ADD I, Vx (R154). -/
  | addI (x : Reg)
  /-- `Fx29` LD F, Vx (R155). -/
  | ldF (x : Reg)
  /-- `Fx33` LD B, Vx (R156). -/
  | ldB (x : Reg)
  /-- `Fx55` LD [I], Vx (R157). -/
  | store (x : Reg)
  /-- `Fx65` LD Vx, [I] (R158). -/
  | load (x : Reg)
  /-- `F_kk` NOPF, `kk` not one of the nine values above (R159). -/
  | nopf (ignX : Nibble) (kk : Byte)
  deriving DecidableEq, Repr

/-- The four no-op rows (R78). -/
def Instr.isNoOp : Instr → Bool
  | .nop0 _ | .nop8 _ _ _ | .nope _ _ | .nopf _ _ => true
  | .cls | .ret | .jp _ | .call _ | .seImm _ _ | .sneImm _ _ | .seReg _ _ _ | .ldImm _ _ | .addImm _ _
  | .ldReg _ _ | .orReg _ _ | .andReg _ _ | .xorReg _ _ | .addReg _ _ | .sub _ _ | .shr _ _ | .subn _ _ | .shl _ _
  | .sneReg _ _ _ | .ldI _ | .jpV0 _ | .rnd _ _ | .drw _ _ _ | .skp _ | .sknp _ | .ldVxDt _ | .ldVxK _
  | .ldDtVx _ | .ldStVx _ | .addI _ | .ldF _ | .ldB _ | .store _ | .load _ => false

end Sys2Proof
end

