-- ==== Sys2Proof/WellFormed.lean ====
section
/-! DEFINITION. Which terms of Instr stand for a word: the four no-op rows exclude the discriminators of the effect
rows of their family (spec/30_encoding.md R79); every other field takes every value of its width (R72, R74). -/

namespace Sys2Proof

/-- The discriminators of family 8 with an effect (R76 rows 11 to 19). -/
def family8Effects : List Nibble := [0x0, 0x1, 0x2, 0x3, 0x4, 0x5, 0x6, 0x7, 0xE]

/-- The discriminators of family E with an effect (R76 rows 26, 27). -/
def familyEEffects : List Byte := [0x9E, 0xA1]

/-- The discriminators of family F with an effect (R76 rows 29 to 37). -/
def familyFEffects : List Byte := [0x07, 0x0A, 0x15, 0x18, 0x1E, 0x29, 0x33, 0x55, 0x65]

/-- The check: false exactly on a no-op term that carries an effect row's discriminator (R79). -/
def Instr.wf : Instr → Bool
  | .nop0 nnn => nnn != 0x0E0 && nnn != 0x0EE
  | .nop8 _ _ n => !family8Effects.contains n
  | .nope _ kk => !familyEEffects.contains kk
  | .nopf _ kk => !familyFEffects.contains kk
  | .cls | .ret | .jp _ | .call _ | .seImm _ _ | .sneImm _ _ | .seReg _ _ _ | .ldImm _ _ | .addImm _ _
  | .ldReg _ _ | .orReg _ _ | .andReg _ _ | .xorReg _ _ | .addReg _ _ | .sub _ _ | .shr _ _ | .subn _ _ | .shl _ _
  | .sneReg _ _ _ | .ldI _ | .jpV0 _ | .rnd _ _ | .drw _ _ _ | .skp _ | .sknp _ | .ldVxDt _ | .ldVxK _
  | .ldDtVx _ | .ldStVx _ | .addI _ | .ldF _ | .ldB _ | .store _ | .load _ => true

/-- An instruction term that stands for a word. -/
abbrev Instr.WellFormed (i : Instr) : Prop := i.wf = true

end Sys2Proof
end

