-- ==== Sys2Proof/Decode.lean ====
section
/-! DEFINITION. The decoder, total on any bytes, and the encoder (spec/30_encoding.md R70 to R82). -/

namespace Sys2Proof

/-- Why a list of bytes is no instruction: every 16-bit word is one (R79, R82), so only a list too short is refused. -/
inductive DecodeError where
  | truncated
  deriving DecidableEq, Repr

/-- The field `op`, `w[15:12]` (R72). -/
def fieldOp (w : Word) : Nibble := w.extractLsb' 12 4

/-- The field `x`, `w[11:8]` (R72). -/
def fieldX (w : Word) : Reg := w.extractLsb' 8 4

/-- The field `y`, `w[7:4]` (R72). -/
def fieldY (w : Word) : Reg := w.extractLsb' 4 4

/-- The field `n`, `w[3:0]` (R72). -/
def fieldN (w : Word) : Nibble := w.extractLsb' 0 4

/-- The field `kk`, `w[7:0]` (R72). -/
def fieldKk (w : Word) : Byte := w.extractLsb' 0 8

/-- The field `nnn`, `w[11:0]` (R72). -/
def fieldNnn (w : Word) : Addr12 := w.extractLsb' 0 12

/-- Family 0: discriminated on the whole word (R75, R82). -/
def decodeFamily0 (w : Word) : Instr :=
  if w = 0x00E0 then .cls else if w = 0x00EE then .ret else .nop0 (fieldNnn w)

/-- Family 8: discriminated on `n` (R75, R82). -/
def decodeFamily8 (w : Word) : Instr :=
  match (fieldN w).toNat with
  | 0x0 => .ldReg (fieldX w) (fieldY w)
  | 0x1 => .orReg (fieldX w) (fieldY w)
  | 0x2 => .andReg (fieldX w) (fieldY w)
  | 0x3 => .xorReg (fieldX w) (fieldY w)
  | 0x4 => .addReg (fieldX w) (fieldY w)
  | 0x5 => .sub (fieldX w) (fieldY w)
  | 0x6 => .shr (fieldX w) (fieldY w)
  | 0x7 => .subn (fieldX w) (fieldY w)
  | 0xE => .shl (fieldX w) (fieldY w)
  | _ => .nop8 (fieldX w) (fieldY w) (fieldN w)

/-- Family E: discriminated on `kk` (R75, R82). -/
def decodeFamilyE (w : Word) : Instr :=
  match (fieldKk w).toNat with
  | 0x9E => .skp (fieldX w)
  | 0xA1 => .sknp (fieldX w)
  | _ => .nope (fieldX w) (fieldKk w)

/-- Family F: discriminated on `kk` (R75, R82). -/
def decodeFamilyF (w : Word) : Instr :=
  match (fieldKk w).toNat with
  | 0x07 => .ldVxDt (fieldX w)
  | 0x0A => .ldVxK (fieldX w)
  | 0x15 => .ldDtVx (fieldX w)
  | 0x18 => .ldStVx (fieldX w)
  | 0x1E => .addI (fieldX w)
  | 0x29 => .ldF (fieldX w)
  | 0x33 => .ldB (fieldX w)
  | 0x55 => .store (fieldX w)
  | 0x65 => .load (fieldX w)
  | _ => .nopf (fieldX w) (fieldKk w)

/-- Decoding of one instruction word, keyed on the high nibble of byte 0 (R75, R82): total, no word is refused. -/
def decodeWord (w : Word) : Instr :=
  match (fieldOp w).toNat with
  | 0x0 => decodeFamily0 w
  | 0x1 => .jp (fieldNnn w)
  | 0x2 => .call (fieldNnn w)
  | 0x3 => .seImm (fieldX w) (fieldKk w)
  | 0x4 => .sneImm (fieldX w) (fieldKk w)
  | 0x5 => .seReg (fieldX w) (fieldY w) (fieldN w)
  | 0x6 => .ldImm (fieldX w) (fieldKk w)
  | 0x7 => .addImm (fieldX w) (fieldKk w)
  | 0x8 => decodeFamily8 w
  | 0x9 => .sneReg (fieldX w) (fieldY w) (fieldN w)
  | 0xA => .ldI (fieldNnn w)
  | 0xB => .jpV0 (fieldNnn w)
  | 0xC => .rnd (fieldX w) (fieldKk w)
  | 0xD => .drw (fieldX w) (fieldY w) (fieldN w)
  | 0xE => decodeFamilyE w
  | _ => decodeFamilyF w

/-- The word of two bytes, the byte fetched first high (R55, R70). -/
def wordOfBytes (b0 b1 : Byte) : Word := b0 ++ b1

/-- The decoder on a list of bytes: the instruction and the bytes after its two (R71), refused only when fewer than two
bytes are left. -/
def decode : List Byte → Except DecodeError (Instr × List Byte)
  | b0 :: b1 :: rest => .ok (decodeWord (wordOfBytes b0 b1), rest)
  | [_] | [] => .error .truncated

/-- Format `A` (R73): `op`, `nnn`. -/
def wordA (op : Nibble) (nnn : Addr12) : Word := op ++ nnn

/-- Formats `XK` and `XS` (R73): `op`, `x`, `kk`. -/
def wordXK (op : Nibble) (x : Reg) (kk : Byte) : Word := (op ++ x : BitVec 8) ++ kk

/-- Formats `XY` and `XYN` (R73): `op`, `x`, `y`, `n`. -/
def wordXYN (op : Nibble) (x y : Reg) (n : Nibble) : Word := (op ++ x : BitVec 8) ++ (y ++ n : BitVec 8)

/-- The word of a well-formed instruction (R73, R76). -/
def encode : Instr → Word
  | .cls => 0x00E0
  | .ret => 0x00EE
  | .nop0 nnn => wordA 0x0 nnn
  | .jp nnn => wordA 0x1 nnn
  | .call nnn => wordA 0x2 nnn
  | .seImm x kk => wordXK 0x3 x kk
  | .sneImm x kk => wordXK 0x4 x kk
  | .seReg x y ign => wordXYN 0x5 x y ign
  | .ldImm x kk => wordXK 0x6 x kk
  | .addImm x kk => wordXK 0x7 x kk
  | .ldReg x y => wordXYN 0x8 x y 0x0
  | .orReg x y => wordXYN 0x8 x y 0x1
  | .andReg x y => wordXYN 0x8 x y 0x2
  | .xorReg x y => wordXYN 0x8 x y 0x3
  | .addReg x y => wordXYN 0x8 x y 0x4
  | .sub x y => wordXYN 0x8 x y 0x5
  | .shr x ign => wordXYN 0x8 x ign 0x6
  | .subn x y => wordXYN 0x8 x y 0x7
  | .shl x y => wordXYN 0x8 x y 0xE
  | .nop8 ignX ignY n => wordXYN 0x8 ignX ignY n
  | .sneReg x y ign => wordXYN 0x9 x y ign
  | .ldI nnn => wordA 0xA nnn
  | .jpV0 nnn => wordA 0xB nnn
  | .rnd x kk => wordXK 0xC x kk
  | .drw x y n => wordXYN 0xD x y n
  | .skp x => wordXK 0xE x 0x9E
  | .sknp x => wordXK 0xE x 0xA1
  | .nope ignX kk => wordXK 0xE ignX kk
  | .ldVxDt x => wordXK 0xF x 0x07
  | .ldVxK x => wordXK 0xF x 0x0A
  | .ldDtVx x => wordXK 0xF x 0x15
  | .ldStVx x => wordXK 0xF x 0x18
  | .addI x => wordXK 0xF x 0x1E
  | .ldF x => wordXK 0xF x 0x29
  | .ldB x => wordXK 0xF x 0x33
  | .store x => wordXK 0xF x 0x55
  | .load x => wordXK 0xF x 0x65
  | .nopf ignX kk => wordXK 0xF ignX kk

/-- Byte 0 of a word, the one at the lower address (R6, R55). -/
def highByte (w : Word) : Byte := w.extractLsb' 8 8

/-- Byte 1 of a word (R6, R55). -/
def lowByte (w : Word) : Byte := w.extractLsb' 0 8

/-- A word as the memory holds it, high byte first (R55). -/
def bytesOfWord (w : Word) : List Byte := [highByte w, lowByte w]

/-- The word the opcode table numbers `w` with `nbits` bits: bit 0 of the table is bit 0 of the one instruction word,
and the bits above `nbits` are 0. -/
def tableWord (nbits w : Nat) : Word := BitVec.ofNat 16 (w % 2 ^ nbits)

/-- The host's question: the instruction the decoder reads from the bytes of the table's word. -/
def decodeTableWord (nbits w : Nat) : Option Instr :=
  match decode (bytesOfWord (tableWord nbits w)) with
  | .ok (i, _) => some i
  | .error _ => none

end Sys2Proof
end

