-- ==== Sys2Proof/Config.lean ====
section
/-! DEFINITION. What is fixed for one machine and its host: the fixed parameters of spec/00_scope.md R4 that the model names,
the open parameters of R5 as free values (no body) or as a choice between the spec's default and a free function, the event
set of R11, and what the host sends as a free value. -/

namespace Sys2Proof.Machine

/-- A target and value of DBG_WRITE (R189, 92_eei_decisions.md D21). -/
inductive DbgTarget where
  | v (x : Reg) (value : Byte)
  | i (value : Word)
  | pc (value : Word)
  | sp (value : Byte)
  | stack (slot : Nibble) (value : Word)
  | dt (value : Byte)
  | st (value : Byte)
  deriving DecidableEq, Repr

/-- The event set (00_scope.md R11). A key code is 4 bits (R182); RESET carries the parameter `FONT` (R5, R200). -/
inductive Event where
  | reset (font : Vector Byte 80)
  | load (image : List Byte)
  | tick
  | resumeReq
  | pauseReq
  | keyDown (k : Nibble)
  | keyUp (k : Nibble)
  | dbgWrite (target : DbgTarget)
  | dbgRead
  | displayRead
  deriving DecidableEq, Repr, Inhabited

end Sys2Proof.Machine

namespace Sys2Proof.Config

/-- `MEM_SIZE` (R4). -/
abbrev memSize : Nat := 4096

/-- `PROG_BASE` (R4): where LOAD puts an image. -/
abbrev progBase : Nat := 0x200

/-- `PC_RESET` (R4). -/
abbrev pcReset : Word := 0x200

/-- `MAX_IMAGE` (R5, 92_eei_decisions.md D17): the longest image LOAD accepts. -/
abbrev maxImage : Nat := 3584

/-- `STACK_DEPTH` (R4), as a value of `SP`. -/
abbrev stackDepth : Byte := 16

/-- `FLAG_REG` (R4): the index of `VF`. -/
abbrev flagReg : Reg := 15

/-- `RAND` (R5, 93_implementation_defined.md U6): the byte of the n-th draw. A FREE VALUE: it has no body, so nothing
can be proved of it beyond its type. DESIGN CHOICE, safe (log 7). -/
opaque randByte : Nat → Byte

/-- Which `SHL_FN` (R5, 93_implementation_defined.md U2) a machine has: the spec's default of R119, or some other
function, about which nothing is known. DESIGN CHOICE, safe: a statement over all states holds for both (log 6). -/
inductive ShlFn where
  | specDefault
  | other
  deriving DecidableEq, Repr

/-- The `SHL_FN` of a machine that has not the spec's default: result and overflow indicator for a value and an
amount. A FREE VALUE, no body (log 6). -/
opaque otherShl : Byte → Byte → Byte × Bool

/-- The n-th event a host of which nothing is known sends: which event it is, is not fixed (R9, 70_reset_and_hazards.md
R209). A FREE VALUE: it has no body, so no event and no TICK can be proved to come. DESIGN CHOICE, safe (log 1, log 26). -/
opaque hostEvent : Nat → Machine.Event

/-- What the host sends once the events the state lists are used up: unknown, every event a free value, or, as a premise a
claim may take, TICK for ever. The spec fixes neither (R9, 70_reset_and_hazards.md R209, D26). DESIGN CHOICE, safe: a
statement over all states holds for both, and State.reset has the unknown host (log 1, log 26). -/
inductive HostKind where
  | unknown
  | ticking
  deriving DecidableEq, Repr

end Sys2Proof.Config
end

