-- ==== Sys2Proof/Machine/Font.lean ====
section
/-! DEFINITION. The default value of the parameter `FONT` (spec/93_implementation_defined.md U1), the table customary
for this family of machines. PRESUMED: the spec marks it as general knowledge, not in the source (log 5). -/

namespace Sys2Proof.Machine

/-- Glyphs 0 to 3 (U1). -/
def fontGlyphs0 : List Byte :=
  [0xF0, 0x90, 0x90, 0x90, 0xF0, 0x20, 0x60, 0x20, 0x20, 0x70,
   0xF0, 0x10, 0xF0, 0x80, 0xF0, 0xF0, 0x10, 0xF0, 0x10, 0xF0]

/-- Glyphs 4 to 7 (U1). -/
def fontGlyphs4 : List Byte :=
  [0x90, 0x90, 0xF0, 0x10, 0x10, 0xF0, 0x80, 0xF0, 0x10, 0xF0,
   0xF0, 0x80, 0xF0, 0x90, 0xF0, 0xF0, 0x10, 0x20, 0x40, 0x40]

/-- Glyphs 8 to B (U1). -/
def fontGlyphs8 : List Byte :=
  [0xF0, 0x90, 0xF0, 0x90, 0xF0, 0xF0, 0x90, 0xF0, 0x10, 0xF0,
   0xF0, 0x90, 0xF0, 0x90, 0x90, 0xE0, 0x90, 0xE0, 0x90, 0xE0]

/-- Glyphs C to F (U1). -/
def fontGlyphsC : List Byte :=
  [0xF0, 0x80, 0x80, 0x80, 0xF0, 0xE0, 0x90, 0x90, 0x90, 0xE0,
   0xF0, 0x80, 0xF0, 0x80, 0xF0, 0xF0, 0x80, 0xF0, 0x80, 0x80]

/-- The 80 bytes, glyph `g` at `5 * g` (R51). -/
def defaultFontBytes : List Byte := fontGlyphs0 ++ fontGlyphs4 ++ fontGlyphs8 ++ fontGlyphsC

/-- The same as the argument of RESET. -/
def defaultFont : Vector Byte 80 := ⟨⟨defaultFontBytes⟩, rfl⟩

end Sys2Proof.Machine
end

