-- ==== Sys2Proof/Machine/State.lean ====
section
/-! DEFINITION. The state of the CORE (spec/10_state.md R20), the reasons a step can stop, and the state after RESET
(R34). Plain data throughout. -/

namespace Sys2Proof.Machine

/-- The execution state `STATE` (R31): the payload of `waitingForKey` is the register that will take the key code. -/
inductive RunState where
  | paused
  | running
  | waitingForKey (r : Reg)
  deriving DecidableEq, Repr

/-- The report output of a TICK (60_exceptions.md R173): no fault, or which of the two faults. -/
inductive Report where
  | none
  | stackUnderflow
  | stackOverflow
  deriving DecidableEq, Repr

/-- The display buffer `DISP[row][col]` (R30): 32 rows of 64 pixels, row index first; true is on. -/
abbrev Display := Vector (Vector Bool 64) 32

/-- Memory (R32, R50) in canonical form: the addresses whose byte differs from what an unlisted address reads as,
strictly rising. -/
abbrev Memory := List Host.Cell

/-- The machine's stops of the model's own. The spec's two faults are not among them: they are next states (R176). -/
inductive Fault where
  /-- Raised by RET and CALL in a state with `SP` above 16, a value R25 says is never held. Safe: no step from a state
  that meets the invariant reaches such a state, and the model stops there where the spec says nothing (log 21). -/
  | stackPointerOutOfRange
  deriving DecidableEq, Repr

/-- Instructions without a meaning. -/
inductive Refusal where
  /-- Raised by an arm of `exec` that has no meaning yet; no arm does. Safe: the model stops. -/
  | notModelled (mnemonic : String)
  deriving DecidableEq, Repr

/-- The whole state. The fields up to `mem` are the tuple of R20; the last six are the model's own. -/
structure State where
  /-- `V[0..15]` (R21, R22). -/
  v : Vector Byte 16
  /-- `I` (R23). -/
  i : Word
  /-- `PC` (R24). -/
  pc : Word
  /-- `SP` (R25): how many return addresses are on the stack, 0 to 16. -/
  sp : Byte
  /-- `STACK[0..15]` (R26). -/
  stack : Vector Word 16
  /-- `DT` (R27). -/
  dt : Byte
  /-- `ST` (R28). -/
  st : Byte
  /-- `KEY[0..15]` (R29). -/
  key : Vector Bool 16
  /-- `DISP` (R30). -/
  disp : Display
  /-- `STATE` (R31). -/
  runState : RunState
  /-- `MEM[0..4095]` (R32). -/
  mem : Memory
  /-- The report output of the latest TICK (R173). The model's own field: nothing reads it. DESIGN CHOICE, safe (log 8). -/
  report : Report
  /-- How many random bytes have been drawn (93_implementation_defined.md U6). The model's own field: it picks the next
  free value `Config.randByte`. DESIGN CHOICE, safe (log 7). -/
  draws : Nat
  /-- Which `SHL_FN` this machine has (R5). The model's own field, changed by nothing. DESIGN CHOICE, safe (log 6). -/
  shl : Config.ShlFn
  /-- The host's next events as far as they are fixed, first first; what follows them is `host`'s. The model's own field.
  DESIGN CHOICE, safe (log 1). -/
  inbox : List Event
  /-- What the host sends after `inbox` (00_scope.md R9, 70_reset_and_hazards.md R209). The model's own field, changed by
  nothing. DESIGN CHOICE, safe (log 1, log 26). -/
  host : Config.HostKind
  /-- How many events the host has sent. The model's own field: it picks the next free value `Config.hostEvent`. DESIGN
  CHOICE, safe (log 1). -/
  sent : Nat
  deriving DecidableEq, Repr

/-- What a meaning answers. -/
abbrev Result := Host.Outcome State Fault Refusal

/-- All pixels off (R30). -/
abbrev Display.blank : Display := Vector.replicate 32 (Vector.replicate 64 false)

/-- The state right after RESET with the default `FONT` (R34, R200): memory lists nothing, since an unlisted address
reads as its reset content. The values R34 marks as decisions (`V`, `I`, `STACK`, `DT`, `ST`, `KEY`) are log 3, the
model's own six fields are logs 1, 6, 7, 8, 26. -/
def State.reset : State where
  v := Vector.replicate 16 0
  i := 0
  pc := Config.pcReset
  sp := 0
  stack := Vector.replicate 16 0
  dt := 0
  st := 0
  key := Vector.replicate 16 false
  disp := Display.blank
  runState := .paused
  mem := []
  report := .none
  draws := 0
  shl := .specDefault
  inbox := []
  host := .unknown
  sent := 0

end Sys2Proof.Machine
end

