-- ==== Sys2Proof/Machine/Memory.lean ====
section
/-! DEFINITION. The operations on the memory array `MEM` at an address below 4096 (spec/20_memory.md R50, R54). -/

namespace Sys2Proof.Machine

/-- What an address that memory does not list reads as: its content right after RESET with the default `FONT`, the
font at 0x000 to 0x04F and 0 above (10_state.md R34; log 4, log 5). -/
def Memory.unlisted (a : Nat) : Byte := defaultFontBytes.getD a 0

/-- The byte at address `a`. -/
def Memory.get : Memory → Nat → Byte
  | [], a => Memory.unlisted a
  | (k, b) :: m, a => if a = k then b else Memory.get m a

/-- Lists `b` at `a`, before the first higher address. -/
def Memory.insertCell (a : Nat) (b : Byte) : Memory → Memory
  | [] => [(a, b)]
  | c :: m => if a < c.1 then (a, b) :: c :: m else c :: Memory.insertCell a b m

/-- Writes `b` at `a`: no entry is left when that is what the unlisted address reads as. -/
def Memory.put (m : Memory) (a : Nat) (b : Byte) : Memory :=
  let rest := m.filter fun c => c.1 != a
  if b = Memory.unlisted a then rest else Memory.insertCell a b rest

/-- Writes a list of bytes at ascending addresses from `a`. -/
def Memory.putList (m : Memory) (a : Nat) : List Byte → Memory
  | [] => m
  | b :: bs => Memory.putList (m.put a b) (a + 1) bs

/-- From `lo` on: addresses strictly rising and below 4096, no entry equal to what an unlisted address reads as. -/
def Memory.wfFrom : Nat → Memory → Bool
  | _, [] => true
  | lo, (a, b) :: m =>
    decide (lo ≤ a) && decide (a < Config.memSize) && (b != Memory.unlisted a) && Memory.wfFrom (a + 1) m

/-- The canonical form of memory. -/
def Memory.wf (m : Memory) : Bool := Memory.wfFrom 0 m

end Sys2Proof.Machine
end

