-- ==== Sys2Proof/Machine/Ops.lean ====
section
/-! DEFINITION. The named operations over the state: one setter per field, register and memory access, the stack,
fault entry, the timers, the random draw, the fetch (spec/00_scope.md R7, 10_state.md, 20_memory.md, 60_exceptions.md). -/

namespace Sys2Proof.Machine

/-! ### One update per field -/

/-- `V[x] <- b` (R7, R21). -/
def State.setReg (s : State) (x : Reg) (b : Byte) : State := { s with v := s.v.set x.toNat b x.isLt }
/-- `I <- w` (R23). -/
def State.setI (s : State) (w : Word) : State := { s with i := w }
/-- `PC <- w` (R24). -/
def State.setPc (s : State) (w : Word) : State := { s with pc := w }
/-- `SP <- n` (R25). -/
def State.setSp (s : State) (n : Byte) : State := { s with sp := n }
/-- `STACK[k] <- w` (R26). -/
def State.setSlot (s : State) (k : Nibble) (w : Word) : State := { s with stack := s.stack.set k.toNat w k.isLt }
/-- `DT <- b` (R27). -/
def State.setDt (s : State) (b : Byte) : State := { s with dt := b }
/-- `ST <- b` (R28). -/
def State.setSt (s : State) (b : Byte) : State := { s with st := b }
/-- `KEY[k] <- f` (R29). -/
def State.setKey (s : State) (k : Nibble) (f : Bool) : State := { s with key := s.key.set k.toNat f k.isLt }
/-- `DISP <- d` (R30). -/
def State.setDisp (s : State) (d : Display) : State := { s with disp := d }
/-- `STATE <- r` (R31). -/
def State.setRunState (s : State) (r : RunState) : State := { s with runState := r }
/-- `MEM <- m` (R32). -/
def State.setMem (s : State) (m : Memory) : State := { s with mem := m }
/-- The report output carries `r` (R173). -/
def State.setReport (s : State) (r : Report) : State := { s with report := r }
/-- The number of bytes drawn (93_implementation_defined.md U6). -/
def State.setDraws (s : State) (n : Nat) : State := { s with draws := n }
/-- The host's next events (00_scope.md R9). -/
def State.setInbox (s : State) (es : List Event) : State := { s with inbox := es }
/-- The number of events the host has sent (00_scope.md R9). -/
def State.setSent (s : State) (n : Nat) : State := { s with sent := n }

/-! ### Reads -/

/-- `V[x]` (R7, R21). -/
def State.reg (s : State) (x : Reg) : Byte := s.v[x.toNat]'x.isLt
/-- `STACK[k]` (R26). -/
def State.slot (s : State) (k : Nibble) : Word := s.stack[k.toNat]'k.isLt
/-- `KEY[k]` (R29). -/
def State.held (s : State) (k : Nibble) : Bool := s.key[k.toNat]'k.isLt

/-! ### Memory -/

/-- `MemRead(addr, 1)`: the byte at `addr mod 4096`, total (R54). -/
def State.memRead (s : State) (addr : Nat) : Byte := s.mem.get (addr % Config.memSize)

/-- `MemWrite(addr, 1, b)`: writes at `addr mod 4096`, total (R54). There is no write protection (R59). -/
def State.memWrite (s : State) (addr : Nat) (b : Byte) : State := s.setMem (s.mem.put (addr % Config.memSize) b)

/-- The effective address of byte `k` of a data access: `(I + k) mod 4096`, the sum unbounded (R52). -/
def State.dataAddr (s : State) (k : Nat) : Nat := (s.i.toNat + k) % Config.memSize

/-- The `n` bytes from `I` on, ascending (R57). -/
def State.readData (s : State) (n : Nat) : List Byte := (List.range n).map fun k => s.memRead (s.dataAddr k)

/-- Writes bytes at `I + k`, `I + k + 1`, … (R57). -/
def State.writeData (s : State) : Nat → List Byte → State
  | _, [] => s
  | k, b :: bs => State.writeData (s.memWrite (s.dataAddr k) b) (k + 1) bs

/-! ### Control flow -/

/-- The further 2 of a skip whose condition holds, `mod 65536` (R24, R100). -/
def State.skipIf (s : State) (c : Bool) : State := if c then s.setPc (s.pc + 2) else s

/-- The slot number `SP` names: `STACK[n]` for `n` in 0 to 15 (R26, D4). -/
def slotNumber (n : Byte) : Nibble := n.setWidth 4

/-- Pushes the post-fetch `PC`: `STACK[SP] <- PC`, then `SP + 1` (R94, D4; log 11). -/
def State.push (s : State) : State := (s.setSlot (slotNumber s.sp) s.pc).setSp (s.sp + 1)

/-- Pops into `PC`: `SP - 1`, then `PC <- STACK[SP]`, the slot keeping its value (R91, D4; log 11). -/
def State.pop (s : State) : State := (s.setSp (s.sp - 1)).setPc (s.slot (slotNumber (s.sp - 1)))

/-- Fault entry, `raise <Fault>()` (60_exceptions.md R176): `STATE <- Paused` and the TICK's report carries the code;
nothing else changes, `PC` keeping its post-fetch value (R174, R175, D5; log 12). -/
def State.raise (s : State) (f : Report) : State := (s.setReport f).setRunState .paused

/-- Leaving a fault (R177, R181): the ordinary `Paused -> Running`, which restores nothing and has no effect in the other
states (R194, D18; log 19). -/
def State.resume (s : State) : State :=
  match s.runState with
  | .paused => s.setRunState .running
  | .running | .waitingForKey _ => s

/-! ### Flag, random draw, timers, fetch -/

/-- A flag value as `VF` holds it: 0 or 1, zero-extended (R22). -/
def flagByte (f : Bool) : Byte := if f then 1 else 0

/-- `VF <- f` (R22). -/
def State.setFlag (s : State) (f : Bool) : State := s.setReg Config.flagReg (flagByte f)

/-- The byte `draw()` gives in this state: a free value (R7, R128; log 7). -/
def State.drawnByte (s : State) : Byte := Config.randByte s.draws

/-- One byte has been drawn (R128). -/
def State.consumeDraw (s : State) : State := s.setDraws (s.draws + 1)

/-- A timer counts down by 1, floored at 0 (R172). -/
def countDown (t : Byte) : Byte := if t = 0 then 0 else t - 1

/-- Both timers count down (R171, R172). -/
def State.countTimers (s : State) : State := (s.setDt (countDown s.dt)).setSt (countDown s.st)

/-- The instruction word at `PC`: bytes `PC mod 4096` and `(PC + 1) mod 4096`, first byte high (R53, R55, R70). -/
def State.fetchWord (s : State) : Word := wordOfBytes (s.memRead s.pc.toNat) (s.memRead (s.pc.toNat + 1))

/-- The fetch advance, `PC <- (PC + 2) mod 65536` (R70, D2; log 9). -/
def State.advance (s : State) : State := s.setPc (s.pc + 2)

/-- What a TICK taken in `Running` does before it executes the instruction (R171): the report output starts at 0
(R173), the timers count down, the fetch advances `PC`. -/
def State.beforeExecute (s : State) : State := (s.setReport .none).countTimers.advance

end Sys2Proof.Machine
end

