-- ==== Sys2Proof/Machine/Flags.lean ====
section
/-! DEFINITION. The flag computations of family 8 (spec/42_fam8_alu.md): each compares exact, unbounded values. The
collision flag of DRW is the compositor's (44_famD_draw.md R133). -/

namespace Sys2Proof.Machine

/-- The carry of ADD: `a + b > 255` (R115). -/
def carry (a b : Byte) : Bool := decide (255 < a.toNat + b.toNat)

/-- The inverted borrow of SUB and SUBN: `a >= b` (R116, R118). -/
def noBorrow (a b : Byte) : Bool := decide (b.toNat ≤ a.toNat)

/-- The bit SHR shifts out: bit 0 (R117). -/
def lowBit (a : Byte) : Bool := a.getLsbD 0

/-- The spec's default `SHL_FN` (R119, D8; PRESUMED, log 6): the amount reduced mod 8, bits shifted past bit 7 lost, the
indicator true when the amount is 8 or more. -/
def defaultShl (a amount : Byte) : Byte × Bool := (a <<< (amount.toNat % 8), decide (8 ≤ amount.toNat))

/-- The `SHL_FN` of a machine (R5, R119). -/
def shlFn : Config.ShlFn → Byte → Byte → Byte × Bool
  | .specDefault => defaultShl
  | .other => Config.otherShl

end Sys2Proof.Machine
end

