-- ==== Sys2Proof/Machine/Operands.lean ====
section
/-! DEFINITION. The operand forms: immediates, key numbers, decimal digits, register blocks (spec/30_encoding.md R72,
R74; the rules of each form are cited below). -/

namespace Sys2Proof.Machine

/-- `zext_16(nnn)` (R74). -/
def addrImm (nnn : Addr12) : Word := nnn.setWidth 16

/-- `zext_16(V[x])`, a register widened (R74, R127, R154). -/
def State.regWide (s : State) (x : Reg) : Word := (s.reg x).setWidth 16

/-- The key `V[x]` selects: its low 4 bits (R140, D9; log 15). -/
def State.keyOf (s : State) (x : Reg) : Nibble := (s.reg x).extractLsb' 0 4

/-- `V[x] * 5` formed in 16 bits (R155, D11; log 16). -/
def State.glyphAddr (s : State) (x : Reg) : Word := s.regWide x * 5

/-- Hundreds, tens and ones of a byte (R156). -/
def decimalDigits (b : Byte) : List Byte :=
  [BitVec.ofNat 8 (b.toNat / 100), BitVec.ofNat 8 (b.toNat / 10 % 10), BitVec.ofNat 8 (b.toNat % 10)]

/-- How many registers the block `V[0..x]` has: the range is inclusive (R157, R158). -/
def blockLength (x : Reg) : Nat := x.toNat + 1

/-- The bytes of `V[0..x]` (R157). -/
def State.regBlock (s : State) (x : Reg) : List Byte :=
  (List.range (blockLength x)).map fun k => s.reg (BitVec.ofNat 4 k)

/-- Writes bytes to `V[k]`, `V[k + 1]`, … (R158). -/
def State.setRegBlock (s : State) : Nat → List Byte → State
  | _, [] => s
  | k, b :: bs => State.setRegBlock (s.setReg (BitVec.ofNat 4 k) b) (k + 1) bs

end Sys2Proof.Machine
end

