-- ==== Sys2Proof/Machine/Alu.lean ====
section
/-! DEFINITION. Family 8 (spec/42_fam8_alu.md). The order of the result write and the flag write, which shows when
`x = 15`, is that of R110 (D6; log 13). -/

namespace Sys2Proof.Machine

/-- LD Vx, Vy (R111). -/
def execLdReg (x y : Reg) (s : State) : Result := .next (s.setReg x (s.reg y))

/-- OR Vx, Vy (R112). -/
def execOr (x y : Reg) (s : State) : Result := .next (s.setReg x (s.reg x ||| s.reg y))

/-- AND Vx, Vy (R113). -/
def execAnd (x y : Reg) (s : State) : Result := .next (s.setReg x (s.reg x &&& s.reg y))

/-- XOR Vx, Vy (R114). -/
def execXor (x y : Reg) (s : State) : Result := .next (s.setReg x (s.reg x ^^^ s.reg y))

/-- ADD Vx, Vy (R115): the sum mod 256, then `VF` = carry. -/
def execAddReg (x y : Reg) (s : State) : Result :=
  .next ((s.setReg x (s.reg x + s.reg y)).setFlag (carry (s.reg x) (s.reg y)))

/-- SUB Vx, Vy (R116): the difference mod 256, then `VF` = no borrow. -/
def execSub (x y : Reg) (s : State) : Result :=
  .next ((s.setReg x (s.reg x - s.reg y)).setFlag (noBorrow (s.reg x) (s.reg y)))

/-- SHR Vx (R117): `VF` = bit 0, then `V[x]` is read again and shifted right by 1. -/
def execShr (x : Reg) (s : State) : Result :=
  let flagged := s.setFlag (lowBit (s.reg x))
  .next (flagged.setReg x (flagged.reg x >>> 1))

/-- SUBN Vx, Vy (R118): `V[y] - V[y]`, then `VF` = no borrow of that subtraction (D7; log 14). -/
def execSubn (x y : Reg) (s : State) : Result :=
  .next ((s.setReg x (s.reg y - s.reg y)).setFlag (noBorrow (s.reg y) (s.reg y)))

/-- SHL Vx, Vy (R119): result and overflow indicator of this machine's `SHL_FN`, amount `V[y]` (D8; log 6). -/
def execShl (x y : Reg) (s : State) : Result :=
  let shifted := shlFn s.shl (s.reg x) (s.reg y)
  .next ((s.setReg x shifted.1).setFlag shifted.2)

/-- NOP8 (R120): no effect. -/
def execNop8 (s : State) : Result := .next s

end Sys2Proof.Machine
end

