-- ==== Sys2Proof/Machine/Compositor.lean ====
section
/-! DEFINITION. The Display Compositor (spec/44_famD_draw.md R131 to R136): XOR of a sprite onto the display buffer, with
its collision result. -/

namespace Sys2Proof.Machine

/-- The pixel at row `r mod 32`, column `c mod 64` (R30, R131). -/
def Display.get (d : Display) (r c : Nat) : Bool :=
  (d[r % 32]'(Nat.mod_lt r (by decide)))[c % 64]'(Nat.mod_lt c (by decide))

/-- Sets the pixel at row `r mod 32`, column `c mod 64`. -/
def Display.put (d : Display) (r c : Nat) (p : Bool) : Display :=
  d.set (r % 32) ((d[r % 32]'(Nat.mod_lt r (by decide))).set (c % 64) p (Nat.mod_lt c (by decide)))
    (Nat.mod_lt r (by decide))

/-- A byte's 8 bits, most significant first: element `j` is bit `7 - j` (R83). -/
def spriteBits (b : Byte) : List Bool := (List.range 8).map fun j => b.getLsbD (7 - j)

/-- One pixel: new state = old XOR bit (R132), collision when old and bit are both on (R133). -/
def drawPixel (r c : Nat) (bit : Bool) (acc : Display × Bool) : Display × Bool :=
  (acc.1.put r c (acc.1.get r c ^^ bit), acc.2 || (acc.1.get r c && bit))

/-- The pixels of one sprite row, from column `c` on (R131). -/
def drawBits (r : Nat) : Nat → List Bool → Display × Bool → Display × Bool
  | _, [], acc => acc
  | c, bit :: bits, acc => drawBits r (c + 1) bits (drawPixel r c bit acc)

/-- The rows of a sprite, from row `r` on, each starting at column `ox` (R131, R134). -/
def drawRows (ox : Nat) : Nat → List Byte → Display × Bool → Display × Bool
  | _, [], acc => acc
  | r, b :: rows, acc => drawRows ox (r + 1) rows (drawBits r ox (spriteBits b) acc)

/-- `compositeSprite(ox, oy, rows)` (R131): the new display and the collision result, false with no rows. -/
def compositeSprite (ox oy : Byte) (rows : List Byte) (d : Display) : Display × Bool :=
  drawRows ox.toNat oy.toNat rows (d, false)

end Sys2Proof.Machine
end

