-- ==== Sys2Proof/Machine/Control.lean ====
section
/-! DEFINITION. Families 0, 1, 2: CLS, RET, NOP0, JP, CALL (spec/40_fam0_2_control.md). -/

namespace Sys2Proof.Machine

/-- CLS (R90): all pixels off. -/
def execCls (s : State) : Result := .next (s.setDisp Display.blank)

/-- RET (R91): StackUnderflow when `SP = 0` (R174), else pop into `PC`. A state with `SP` above 16, never held (R25),
stops (log 21). -/
def execRet (s : State) : Result :=
  if s.sp = 0 then .next (s.raise .stackUnderflow)
  else if Config.stackDepth < s.sp then .fault .stackPointerOutOfRange
  else .next s.pop

/-- NOP0 (R92): no effect. -/
def execNop0 (s : State) : Result := .next s

/-- JP nnn (R93). -/
def execJp (nnn : Addr12) (s : State) : Result := .next (s.setPc (addrImm nnn))

/-- CALL nnn (R94): StackOverflow when `SP = 16` (R175), else push the post-fetch `PC` and jump. A state with `SP` above
16, never held (R25), stops (log 21). -/
def execCall (nnn : Addr12) (s : State) : Result :=
  if s.sp = Config.stackDepth then .next (s.raise .stackOverflow)
  else if Config.stackDepth < s.sp then .fault .stackPointerOutOfRange
  else .next (s.push.setPc (addrImm nnn))

end Sys2Proof.Machine
end

