-- ==== Sys2Proof/Machine/Draw.lean ====
section
/-! DEFINITION. Family D (spec/44_famD_draw.md). -/

namespace Sys2Proof.Machine

/-- What DRW hands the compositor in this state: origin `(V[x], V[y])` and `n` rows from `I` (R130). -/
def State.drawn (s : State) (x y : Reg) (n : Nibble) : Display × Bool :=
  compositeSprite (s.reg x) (s.reg y) (s.readData n.toNat) s.disp

/-- DRW Vx, Vy, n (R130): the composed display, then `VF` = collision; `n = 0` draws nothing and clears `VF` (D30; log 17). -/
def execDrw (x y : Reg) (n : Nibble) (s : State) : Result :=
  let composed := s.drawn x y n
  .next ((s.setDisp composed.1).setFlag composed.2)

end Sys2Proof.Machine
end

