-- ==== Sys2Proof/Machine/Keys.lean ====
section
/-! DEFINITION. Family E (spec/45_famE_keys.md). -/

namespace Sys2Proof.Machine

/-- SKP Vx (R140). -/
def execSkp (x : Reg) (s : State) : Result := .next (s.skipIf (s.held (s.keyOf x)))

/-- SKNP Vx (R141). -/
def execSknp (x : Reg) (s : State) : Result := .next (s.skipIf (!s.held (s.keyOf x)))

/-- NOPE (R142): no effect. -/
def execNope (s : State) : Result := .next s

end Sys2Proof.Machine
end

