-- ==== Sys2Proof/Machine/Misc.lean ====
section
/-! DEFINITION. Families 9, A, B, C (spec/43_fam9_C_misc.md). -/

namespace Sys2Proof.Machine

/-- SNE Vx, Vy (R125). -/
def execSneReg (x y : Reg) (s : State) : Result := .next (s.skipIf (s.reg x != s.reg y))

/-- LD I, nnn (R126). -/
def execLdI (nnn : Addr12) (s : State) : Result := .next (s.setI (addrImm nnn))

/-- JP V0, nnn (R127): the sum is not reduced to 12 bits (D2; log 9). -/
def execJpV0 (nnn : Addr12) (s : State) : Result := .next (s.setPc (s.regWide 0 + addrImm nnn))

/-- RND Vx, kk (R128): one drawn byte, a free value (log 7), AND `kk`. -/
def execRnd (x : Reg) (kk : Byte) (s : State) : Result := .next (s.consumeDraw.setReg x (s.drawnByte &&& kk))

end Sys2Proof.Machine
end

