-- ==== Sys2Proof/Machine/SkipImm.lean ====
section
/-! DEFINITION. Families 3 to 7: skips, load immediate, add immediate (spec/41_fam3_7_skip_imm.md). -/

namespace Sys2Proof.Machine

/-- SE Vx, kk (R100). -/
def execSeImm (x : Reg) (kk : Byte) (s : State) : Result := .next (s.skipIf (s.reg x == kk))

/-- SNE Vx, kk (R101). -/
def execSneImm (x : Reg) (kk : Byte) (s : State) : Result := .next (s.skipIf (s.reg x != kk))

/-- SE Vx, Vy (R102). -/
def execSeReg (x y : Reg) (s : State) : Result := .next (s.skipIf (s.reg x == s.reg y))

/-- LD Vx, kk (R103). -/
def execLdImm (x : Reg) (kk : Byte) (s : State) : Result := .next (s.setReg x kk)

/-- ADD Vx, kk (R104): wraps mod 256, no flag. -/
def execAddImm (x : Reg) (kk : Byte) (s : State) : Result := .next (s.setReg x (s.reg x + kk))

end Sys2Proof.Machine
end

