-- ==== Sys2Proof/Machine/TimerBlock.lean ====
section
/-! DEFINITION. Family F: timers, key wait, index arithmetic, font, decimal digits, block store and load
(spec/46_famF_misc.md). -/

namespace Sys2Proof.Machine

/-- LD Vx, DT (R150). -/
def execLdVxDt (x : Reg) (s : State) : Result := .next (s.setReg x s.dt)

/-- LD Vx, K (R151): enters the key wait; `V[x]` is written by the KEY_DOWN that ends it. -/
def execLdVxK (x : Reg) (s : State) : Result := .next (s.setRunState (.waitingForKey x))

/-- LD DT, Vx (R152). -/
def execLdDtVx (x : Reg) (s : State) : Result := .next (s.setDt (s.reg x))

/-- LD ST, Vx (R153). -/
def execLdStVx (x : Reg) (s : State) : Result := .next (s.setSt (s.reg x))

/-- ADD I, Vx (R154): wraps mod 65536 (D10; log 16), no flag. -/
def execAddI (x : Reg) (s : State) : Result := .next (s.setI (s.i + s.regWide x))

/-- LD F, Vx (R155). -/
def execLdF (x : Reg) (s : State) : Result := .next (s.setI (s.glyphAddr x))

/-- LD B, Vx (R156). -/
def execLdB (x : Reg) (s : State) : Result := .next (s.writeData 0 (decimalDigits (s.reg x)))

/-- LD [I], Vx (R157): `I` unchanged (D29; log 22). -/
def execStore (x : Reg) (s : State) : Result := .next (s.writeData 0 (s.regBlock x))

/-- LD Vx, [I] (R158): `I` unchanged (D29; log 22). -/
def execLoad (x : Reg) (s : State) : Result := .next (s.setRegBlock 0 (s.readData (blockLength x)))

/-- NOPF (R159): no effect. -/
def execNopf (s : State) : Result := .next s

end Sys2Proof.Machine
end

