-- ==== Sys2Proof/Machine/Events.lean ====
section
/-! DEFINITION. What each event does in each state (spec/60_exceptions.md R194, 70_reset_and_hazards.md R200, R201). -/

namespace Sys2Proof.Machine

/-- TICK (R171): nothing unless `Running`; then the timers, the fetch and one instruction. Its report output is 0 unless
the instruction faults (R173). -/
def tick (s : State) : Result :=
  match s.runState with
  | .running => exec (decodeWord s.fetchWord) s.beforeExecute
  | .paused | .waitingForKey _ => .next (s.setReport .none)

/-- RESET with the parameter `FONT` (R200). The random source, the machine's `SHL_FN` and the host's own events are
outside the CORE and stay. R200 says RESET happens once, first; the model takes it in any state (log 23). -/
def State.resetWith (s : State) (font : Vector Byte 80) : State :=
  { State.reset with
    mem := Memory.putList [] 0 font.toList, draws := s.draws, shl := s.shl, inbox := s.inbox, host := s.host,
    sent := s.sent }

/-- What LOAD resets (R201): registers, stack, program counter, timers, display, and `STATE <- Paused`; not the keys
(D16; log 18). -/
def State.loadResets (s : State) : State :=
  { s with
    v := State.reset.v, i := State.reset.i, pc := State.reset.pc, sp := State.reset.sp, stack := State.reset.stack,
    dt := State.reset.dt, st := State.reset.st, disp := State.reset.disp, runState := .paused }

/-- LOAD(image) (R201): the image's bytes from 0x200, then the resets; an image longer than `MAX_IMAGE` is refused and
changes nothing (R202, D17; log 18). -/
def State.loadImage (s : State) (image : List Byte) : State :=
  if image.length ≤ Config.maxImage then (s.setMem (s.mem.putList Config.progBase image)).loadResets else s

/-- PAUSE_REQ (R180): effective in `Running` only (R194, D18; log 19). -/
def State.pause (s : State) : State :=
  match s.runState with
  | .running => s.setRunState .paused
  | .paused | .waitingForKey _ => s

/-- KEY_DOWN(k) (R182): the flag in every state (D19; log 19); in `WaitingForKey(r)` also `V[r] <- k` and `Running`. -/
def State.keyDown (s : State) (k : Nibble) : State :=
  match s.runState with
  | .waitingForKey r => ((s.setKey k true).setReg r (k.setWidth 8)).setRunState .running
  | .paused | .running => s.setKey k true

/-- KEY_UP(k) (R183): the flag, in every state, and nothing else. -/
def State.keyUp (s : State) (k : Nibble) : State := s.setKey k false

/-- The write DBG_WRITE performs; `SP` above 16 is refused (R189, D21; log 20). -/
def State.dbgStore (s : State) : DbgTarget → State
  | .v x b => s.setReg x b
  | .i w => s.setI w
  | .pc w => s.setPc w
  | .sp n => if n ≤ Config.stackDepth then s.setSp n else s
  | .stack k w => s.setSlot k w
  | .dt b => s.setDt b
  | .st b => s.setSt b

/-- DBG_WRITE (R189): performed only while `Paused`, else refused and nothing changes. -/
def State.dbgWrite (s : State) (target : DbgTarget) : State :=
  match s.runState with
  | .paused => s.dbgStore target
  | .running | .waitingForKey _ => s

/-- The effect of one event (R194). DBG_READ and the display read observe and change nothing (R188, R189). -/
def deliver (e : Event) (s : State) : Result :=
  match e with
  | .reset font => .next (s.resetWith font)
  | .load image => .next (s.loadImage image)
  | .tick => tick s
  | .resumeReq => .next s.resume
  | .pauseReq => .next s.pause
  | .keyDown k => .next (s.keyDown k)
  | .keyUp k => .next (s.keyUp k)
  | .dbgWrite target => .next (s.dbgWrite target)
  | .dbgRead => .next s
  | .displayRead => .next s

/-- The n-th event of a host once the listed ones are used up: free, or TICK under the premise that it keeps ticking
(00_scope.md R9, 70_reset_and_hazards.md R209). DESIGN CHOICE, safe (log 1, log 26). -/
def hostEventAt : Config.HostKind → Nat → Event
  | .unknown, n => Config.hostEvent n
  | .ticking, _ => .tick

/-- The n-th event still to come: listed in `inbox`, else the host's. Every endless order of events is one of these
sequences, one with no TICK among them (R9, R209; log 1, log 26). -/
def State.upcoming (s : State) (n : Nat) : Event :=
  match s.inbox[n]? with
  | some e => e
  | none => hostEventAt s.host (s.sent + n)

/-- The next event. That it is a TICK is nowhere built in: with an empty `inbox` and the unknown host of State.reset it is a
free value (R209, D26; DESIGN CHOICE, safe, log 1, log 26). -/
def State.nextEvent (s : State) : Event := s.upcoming 0

/-- The schedule with its next event taken out. -/
def State.takeEvent (s : State) : State := { s with inbox := s.inbox.tail, sent := s.sent + 1 }

/-- The schedule with a TICK put before its next event. -/
def State.scheduleTick (s : State) : State := s.setInbox (.tick :: s.inbox)

/-- Places the two bytes of an instruction word where the next fetch reads them (R53, R55). -/
def State.placeWord (s : State) (w : Word) : State :=
  (s.memWrite s.pc.toNat (highByte w)).memWrite (s.pc.toNat + 1) (lowByte w)

end Sys2Proof.Machine
end

