-- ==== Sys2Proof/Machine/Step.lean ====
section
/-! DEFINITION. One step of the machine: the next event of the host's schedule takes its effect (spec/00_scope.md R9,
R11; log 1). -/

namespace Sys2Proof.Machine

/-- One atomic event, the host's next (00_scope.md R9); no event is preferred (log 1, log 26). -/
def step (s : State) : Host.Outcome State Fault Refusal := deliver s.nextEvent s.takeEvent

/-- The table's word `w` placed where the next fetch reads it, the machine `Running` and the next event TICK, so that the
very next step runs it (log 2). -/
def State.withFetchWord (s : State) (nbits w : Nat) : State :=
  ((s.placeWord (tableWord nbits w)).setRunState .running).scheduleTick

end Sys2Proof.Machine
end

