-- ==== Sys2Proof/Safety.lean ====
section
/-! DEFINITION. The terms claims use: the invariant of the machine's states, what it means that a part of the state is
unchanged, and the frame of an instruction. -/

namespace Sys2Proof.Machine

/-- What holds of every state the machine reaches: `SP` never exceeds 16 (spec/10_state.md R25) and memory keeps its
canonical form. -/
abbrev State.Inv (s : State) : Prop := s.sp ≤ Config.stackDepth ∧ s.mem.wf = true

/-- The parts of the state besides the general registers (10_state.md R20 and the model's own fields). -/
inductive Part where
  | i | pc | sp | stack | dt | st | key | disp | runState | mem | report | draws | shl | inbox
  | host | sent
  deriving DecidableEq, Repr

/-- A part is the same in both states; of memory, every byte reads the same. -/
def Kept : Part → State → State → Prop
  | .i, s, t => t.i = s.i
  | .pc, s, t => t.pc = s.pc
  | .sp, s, t => t.sp = s.sp
  | .stack, s, t => ∀ k, t.slot k = s.slot k
  | .dt, s, t => t.dt = s.dt
  | .st, s, t => t.st = s.st
  | .key, s, t => ∀ k, t.held k = s.held k
  | .disp, s, t => ∀ r c, t.disp.get r c = s.disp.get r c
  | .runState, s, t => t.runState = s.runState
  | .mem, s, t => ∀ a, t.memRead a = s.memRead a
  | .report, s, t => t.report = s.report
  | .draws, s, t => t.draws = s.draws
  | .shl, s, t => t.shl = s.shl
  | .inbox, s, t => t.inbox = s.inbox
  | .host, s, t => t.host = s.host
  | .sent, s, t => t.sent = s.sent

/-- Nothing changes from `s` to `t` but, at most, the registers `regs` and the parts `parts`. -/
def Frame (regs : List Reg) (parts : List Part) (s t : State) : Prop :=
  (∀ z, z ∉ regs → t.reg z = s.reg z) ∧ ∀ p, p ∉ parts → Kept p s t

/-- The premise that the host keeps sending TICKs (70_reset_and_hazards.md R209, D26): a claim of progress takes it, and
nothing in the model builds it in (log 26). -/
def State.HostTicks (s : State) : Prop := ∀ n, ∃ m, n ≤ m ∧ s.upcoming m = .tick

/-- The premise that a KEY_DOWN eventually arrives, however far the run has gone (70_reset_and_hazards.md R209, D26; log 26). -/
def State.HostPressesKeys (s : State) : Prop := ∀ n, ∃ m k, n ≤ m ∧ s.upcoming m = .keyDown k

/-- `VF` (10_state.md R22). -/
abbrev State.vf (s : State) : Byte := s.reg Config.flagReg

/-- The rows that write `VF` as a flag (10_state.md R22). -/
def writesFlag : Instr → Bool
  | .addReg _ _ | .sub _ _ | .shr _ _ | .subn _ _ | .shl _ _ | .drw _ _ _ => true
  | .cls | .ret | .nop0 _ | .jp _ | .call _ | .seImm _ _ | .sneImm _ _ | .seReg _ _ _ | .ldImm _ _ | .addImm _ _
  | .ldReg _ _ | .orReg _ _ | .andReg _ _ | .xorReg _ _ | .nop8 _ _ _ | .sneReg _ _ _ | .ldI _ | .jpV0 _ | .rnd _ _
  | .skp _ | .sknp _ | .nope _ _ | .ldVxDt _ | .ldVxK _ | .ldDtVx _ | .ldStVx _ | .addI _ | .ldF _ | .ldB _
  | .store _ | .load _ | .nopf _ _ => false

/-- The number of bytes an instruction stores to memory from `I` on (20_memory.md R57). -/
def storedBytes : Instr → Nat
  | .ldB _ => 3
  | .store x => blockLength x
  | .cls | .ret | .nop0 _ | .jp _ | .call _ | .seImm _ _ | .sneImm _ _ | .seReg _ _ _ | .ldImm _ _ | .addImm _ _
  | .ldReg _ _ | .orReg _ _ | .andReg _ _ | .xorReg _ _ | .addReg _ _ | .sub _ _ | .shr _ _ | .subn _ _ | .shl _ _
  | .nop8 _ _ _ | .sneReg _ _ _ | .ldI _ | .jpV0 _ | .rnd _ _ | .drw _ _ _ | .skp _ | .sknp _ | .nope _ _
  | .ldVxDt _ | .ldVxK _ | .ldDtVx _ | .ldStVx _ | .addI _ | .ldF _ | .load _ | .nopf _ _ => 0

/-- The registers `V[0..x]` (46_famF_misc.md R158). -/
def blockRegs (x : Reg) : List Reg := (List.range (blockLength x)).map fun k => BitVec.ofNat 4 k

/-- The registers an instruction writes: its destination, and `VF` where the row writes it as a flag (R21, R22). -/
def destRegs : Instr → List Reg
  | .ldImm x _ | .addImm x _ | .rnd x _ | .ldVxDt x => [x]
  | .ldReg x _ | .orReg x _ | .andReg x _ | .xorReg x _ => [x]
  | .addReg x _ | .sub x _ | .shr x _ | .subn x _ | .shl x _ => [x, Config.flagReg]
  | .drw _ _ _ => [Config.flagReg]
  | .load x => blockRegs x
  | .cls | .ret | .nop0 _ | .jp _ | .call _ | .seImm _ _ | .sneImm _ _ | .seReg _ _ _ | .nop8 _ _ _ | .sneReg _ _ _
  | .ldI _ | .jpV0 _ | .skp _ | .sknp _ | .nope _ _ | .ldVxK _ | .ldDtVx _ | .ldStVx _ | .addI _ | .ldF _ | .ldB _
  | .store _ | .nopf _ _ => []

/-- The other parts of the state an instruction may write, stack faults included (10_state.md R23 to R32). -/
def destParts : Instr → List Part
  | .cls | .drw _ _ _ => [.disp]
  | .ret => [.sp, .pc, .runState, .report]
  | .call _ => [.sp, .pc, .stack, .runState, .report]
  | .jp _ | .jpV0 _ | .seImm _ _ | .sneImm _ _ | .seReg _ _ _ | .sneReg _ _ _ | .skp _ | .sknp _ => [.pc]
  | .ldI _ | .addI _ | .ldF _ => [.i]
  | .rnd _ _ => [.draws]
  | .ldVxK _ => [.runState]
  | .ldDtVx _ => [.dt]
  | .ldStVx _ => [.st]
  | .ldB _ | .store _ => [.mem]
  | .nop0 _ | .ldImm _ _ | .addImm _ _ | .ldReg _ _ | .orReg _ _ | .andReg _ _ | .xorReg _ _ | .addReg _ _ | .sub _ _
  | .shr _ _ | .subn _ _ | .shl _ _ | .nop8 _ _ _ | .nope _ _ | .ldVxDt _ | .load _ | .nopf _ _ => []

/-- The two states agree on everything but the stack slots at index `SP` and above, which are dead (10_state.md R26). -/
structure SameButDeadSlots (s t : State) : Prop where
  live : ∀ k : Nibble, k.toNat < s.sp.toNat → t.slot k = s.slot k
  rest : ({ t with stack := s.stack } : State) = s

end Sys2Proof.Machine
end

