-- ==== Sys2Proof/Certificates/Slice0/Obligations.lean ====
section
/-! DEFINITION. The statements for the provers. Where a clause rests on a choice of the model or on a decision the spec
marks as its own, the docstring names the log entry or the decision. -/

open Sys2Proof Sys2Proof.Machine

/-! ### Encoding -/

/-- Decoding the bytes of an encoded well-formed instruction gives it back, whatever bytes follow (R70 to R82). -/
def Obligations.DecodeInvertsEncode : Prop :=
  ∀ (i : Instr) (rest : List Byte), i.WellFormed → decode (bytesOfWord (encode i) ++ rest) = .ok (i, rest)

/-- Every word decodes to a well-formed instruction whose encoding is that word: decoding is total and no two words are
one instruction (R79, R82; the ignored bits are kept in the terms, log 24). -/
def Obligations.EncodeInvertsDecode : Prop :=
  ∀ w : Word, (decodeWord w).WellFormed ∧ encode (decodeWord w) = w

/-- The no-op words are exactly those of R79, written in the word's decimal-free digits: family, `n`, `kk`. -/
def Obligations.NoOpWordsAreExactlyListed : Prop :=
  ∀ w : Word, (decodeWord w).isNoOp = true ↔
    (w.toNat / 4096 = 0x0 ∧ w.toNat ≠ 0x00E0 ∧ w.toNat ≠ 0x00EE) ∨
    (w.toNat / 4096 = 0x8 ∧ w.toNat % 16 ∈ [0x8, 0x9, 0xA, 0xB, 0xC, 0xD, 0xF]) ∨
    (w.toNat / 4096 = 0xE ∧ w.toNat % 256 ∉ [0x9E, 0xA1]) ∨
    (w.toNat / 4096 = 0xF ∧ w.toNat % 256 ∉ [0x07, 0x0A, 0x15, 0x18, 0x1E, 0x29, 0x33, 0x55, 0x65])

/-- Words of the spec's examples, one or more of each family, decode to the instructions they stand for (R76). -/
def Obligations.ExampleWordsDecode : Prop :=
  decodeWord 0x00E0 = .cls ∧ decodeWord 0x00EE = .ret ∧ decodeWord 0x0000 = .nop0 0x000 ∧
  decodeWord 0x1204 = .jp 0x204 ∧ decodeWord 0x220A = .call 0x20A ∧ decodeWord 0x3456 = .seImm 4 0x56 ∧
  decodeWord 0x4101 = .sneImm 1 0x01 ∧ decodeWord 0x523F = .seReg 2 3 0xF ∧ decodeWord 0x6A7F = .ldImm 10 0x7F ∧
  decodeWord 0x7020 = .addImm 0 0x20 ∧ decodeWord 0x8454 = .addReg 4 5 ∧ decodeWord 0x801E = .shl 0 1 ∧
  decodeWord 0x9230 = .sneReg 2 3 0x0 ∧ decodeWord 0xA20E = .ldI 0x20E ∧ decodeWord 0xB300 = .jpV0 0x300 ∧
  decodeWord 0xC30F = .rnd 3 0x0F ∧ decodeWord 0xD122 = .drw 1 2 2 ∧ decodeWord 0xE5A1 = .sknp 5 ∧
  decodeWord 0xF265 = .load 2

/-! ### The step -/

/-- When the machine is `Running` and the next event is TICK, and the two bytes at `PC` decode to an instruction, the
step is that instruction's `exec` on the state whose timers have counted down and whose `PC` has moved past the word (R70,
R171; the wrap of `PC` is the spec's decision D2, log 9). Three clauses are of the model's own fields: the report output
starts at 0 (a field by log 8, D20), and the event is off the schedule and counted (log 1). -/
def Obligations.StepRunsDecodedInstruction : Prop :=
  ∀ (s : State) (i : Instr), s.runState = .running → s.nextEvent = .tick →
    decode [s.memRead s.pc.toNat, s.memRead (s.pc.toNat + 1)] = .ok (i, []) →
    step s = exec i s.takeEvent.beforeExecute ∧
    s.takeEvent.beforeExecute.pc = s.pc + 2 ∧
    s.takeEvent.beforeExecute.dt.toNat = s.dt.toNat - 1 ∧
    s.takeEvent.beforeExecute.st.toNat = s.st.toNat - 1 ∧
    s.takeEvent.beforeExecute.report = .none ∧
    s.takeEvent.beforeExecute.inbox = s.inbox.tail ∧
    s.takeEvent.beforeExecute.sent = s.sent + 1 ∧
    Frame [] [.pc, .dt, .st, .report, .inbox, .sent] s s.takeEvent.beforeExecute

/-- A TICK in `Paused` or `WaitingForKey` changes nothing of the machine: no fetch, no timer (R171, R184, R192). Its
report output is 0 (a field by log 8, D20), and it is off the schedule and counted (log 1). -/
def Obligations.TickIgnoredUnlessRunning : Prop :=
  ∀ s : State, s.runState ≠ .running → s.nextEvent = .tick →
    ∃ t, step s = .next t ∧ t.report = .none ∧ t.inbox = s.inbox.tail ∧ t.sent = s.sent + 1 ∧
      Frame [] [.report, .inbox, .sent] s t

/-! ### The invariant -/

/-- From every state that meets the invariant, every step, whatever event it takes, answers a next state that meets it:
no event stops the machine (R10), `SP` stays in 0 to 16 (R25), memory keeps its canonical form. The step takes exactly one
event off what the host will send and changes nothing of the rest (R9; the schedule is log 1, that no TICK is built into it
log 26). -/
def Obligations.StepAnswersAndKeepsInv : Prop :=
  ∀ s : State, s.Inv → ∃ t, step s = .next t ∧ t.Inv ∧ ∀ n, t.upcoming n = s.upcoming (n + 1)

/-- The state after reset meets the invariant. -/
def Obligations.ResetMeetsInv : Prop := State.reset.Inv

/-- The values the source itself gives for reset: `PC`, the empty stack, the blank display, `Paused` (R34). -/
def Obligations.ResetLeavesGivenValues : Prop :=
  State.reset.pc = 0x200 ∧ State.reset.sp = 0 ∧ (∀ r c, State.reset.disp.get r c = false) ∧
  State.reset.runState = .paused

/-- The values R34 marks as the spec's decisions (D14, D15; log 3, log 4) and the default `FONT` (D13, log 5): registers,
`I`, stack, timers and keys are zero, memory is the font below 0x050 and zero above. -/
def Obligations.ResetLeavesChosenValues : Prop :=
  (∀ x, State.reset.reg x = 0) ∧ State.reset.i = 0 ∧ (∀ k, State.reset.slot k = 0) ∧ State.reset.dt = 0 ∧
  State.reset.st = 0 ∧ (∀ k, State.reset.held k = false) ∧
  (∀ a, a < 80 → State.reset.memRead a = defaultFont.toList.getD a 0) ∧
  (∀ a, 80 ≤ a → a < 4096 → State.reset.memRead a = 0)

/-- RESET puts its parameter `FONT` at 0x000 to 0x04F, zeros above (D14, log 4), `PC` at 0x200, the display off, the
stack empty and the machine `Paused`; `V`, `I`, the stack slots, the timers and the keys are zero (D15, log 3) (R200, R34), in
whatever state it comes (log 23). -/
def Obligations.ResetEventPlacesFont : Prop :=
  ∀ (s : State) (font : Vector Byte 80), ∃ t, deliver (.reset font) s = .next t ∧
    (∀ a (h : a < 80), t.memRead a = font[a]) ∧ (∀ a, 80 ≤ a → a < 4096 → t.memRead a = 0) ∧
    t.pc = 0x200 ∧ t.sp = 0 ∧ (∀ r c, t.disp.get r c = false) ∧ t.runState = .paused ∧
    (∀ x, t.reg x = 0) ∧ t.i = 0 ∧ (∀ k, t.slot k = 0) ∧ t.dt = 0 ∧ t.st = 0 ∧ ∀ k, t.held k = false

/-! ### Whole-machine rules -/

/-- Whatever event is delivered, `STATE` changes only as the transition table lists (R170). Three clauses rest on choices:
that PAUSE_REQ outside `Running` and RESUME_REQ outside `Paused` leave `STATE` as it is is D18, log 19; that LOAD may leave
it (a longer image is refused) is D17, log 18; that RESET may come in any state is log 23. -/
def Obligations.RunStateChangesOnlyAsListed : Prop :=
  ∀ (e : Event) (s t : State), deliver e s = .next t →
    t.runState = s.runState ∨
    (e = .resumeReq ∧ s.runState = .paused ∧ t.runState = .running) ∨
    (e = .pauseReq ∧ s.runState = .running ∧ t.runState = .paused) ∨
    (e = .tick ∧ s.runState = .running ∧ t.runState = .paused ∧
      ((decodeWord s.fetchWord = .ret ∧ s.sp = 0) ∨ ((∃ nnn, decodeWord s.fetchWord = .call nnn) ∧ s.sp = 16))) ∨
    (e = .tick ∧ s.runState = .running ∧ ∃ x, decodeWord s.fetchWord = .ldVxK x ∧ t.runState = .waitingForKey x) ∨
    ((∃ k, e = .keyDown k) ∧ (∃ r, s.runState = .waitingForKey r) ∧ t.runState = .running) ∨
    ((∃ image, e = .load image) ∧ t.runState = .paused) ∨
    ((∃ font, e = .reset font) ∧ t.runState = .paused)

/-- The report of a TICK is a fault exactly when the machine is `Running` and the word is a RET with an empty stack or a
CALL with a full one; otherwise it is 0 (R173; the report is a field of the model, log 8). -/
def Obligations.ReportNamesTheTwoFaults : Prop :=
  ∀ s t : State, deliver .tick s = .next t →
    (t.report = .stackUnderflow ↔ s.runState = .running ∧ decodeWord s.fetchWord = .ret ∧ s.sp = 0) ∧
    (t.report = .stackOverflow ↔ s.runState = .running ∧ (∃ nnn, decodeWord s.fetchWord = .call nnn) ∧ s.sp = 16)

/-- The six rows that write `VF` as a flag leave 0 or 1 in it, `x = 15` included (R22; for `x = 15` the order of the writes
is the spec's decision D6, log 13). -/
def Obligations.FlagWritersLeaveZeroOrOne : Prop :=
  ∀ (i : Instr) (s t : State), writesFlag i = true → exec i s = .next t → t.vf = 0 ∨ t.vf = 1

/-- Every instruction changes at most its destination registers and the parts its rule writes (R21 to R32). Some clauses
rest on choices: that RET keeps every slot, the popped one included, is D4, log 11; that LD [I], Vx and LD Vx, [I] keep `I` is
D29, log 22; that no instruction touches the host's schedule, the choice of `SHL_FN` or, but for RND, the count of draws is of
the model's own fields, logs 1, 6, 7. -/
def Obligations.EveryInstructionKeepsItsFrame : Prop :=
  ∀ (i : Instr) (s t : State), exec i s = .next t → Frame (destRegs i) (destParts i) s t

/-- Every instruction leaves every byte of memory outside the `storedBytes i` bytes from `I` on (R57), whose addresses are
`(I + k) mod 4096` (the wrap is the spec's choice D3, log 10). -/
def Obligations.StoresTouchOnlyTheirBytes : Prop :=
  ∀ (i : Instr) (s t : State) (a : Nat), exec i s = .next t →
    (∀ k, k < storedBytes i → a % 4096 ≠ s.dataAddr k) → t.memRead a = s.memRead a

/-- The key flags change only by KEY_DOWN, KEY_UP and RESET: no instruction, no LOAD writes them (R29; LOAD is D16, log 18;
that DBG_WRITE does not reach them is D21, log 20). -/
def Obligations.KeysChangeOnlyByKeyEvents : Prop :=
  ∀ (e : Event) (s t : State), deliver e s = .next t → (∀ k, e ≠ .keyDown k) → (∀ k, e ≠ .keyUp k) →
    (∀ font, e ≠ .reset font) → ∀ k, t.held k = s.held k

/-- No instruction reads `ST`: changing it before the instruction changes nothing but `ST` after it, which is then the
changed value or, where the instruction writes `ST`, what it writes (R28). -/
def Obligations.SoundTimerNeverRead : Prop :=
  ∀ (i : Instr) (s t : State) (b : Byte), exec i s = .next t →
    ∃ t', exec i (s.setSt b) = .next t' ∧ t'.setSt t.st = t ∧
      t'.st = match i with
        | .ldStVx x => s.reg x
        | _ => b

/-- No instruction observes a stack slot at index `SP` or above: two states that differ only there stay so (R26). -/
def Obligations.DeadSlotsUnobservable : Prop :=
  ∀ (i : Instr) (s s' t : State), s.sp ≤ 16 → SameButDeadSlots s s' → exec i s = .next t →
    ∃ t', exec i s' = .next t' ∧ SameButDeadSlots t t'

/-! ### Memory -/

/-- `MemRead` and `MemWrite` are total and take the address mod 4096; a read sees the latest write to its address, and a
write changes nothing else of the machine (R54). -/
def Obligations.MemReadSeesMemWrite : Prop :=
  ∀ (s : State) (addr : Nat) (b : Byte) (a : Nat),
    (s.memWrite addr b).memRead a = (if a % 4096 = addr % 4096 then b else s.memRead a) ∧
    s.memRead addr = s.memRead (addr % 4096) ∧ Frame [] [.mem] s (s.memWrite addr b)

/-- The canonical form is one: two memories in it that read the same at every address are equal data. -/
def Obligations.CanonicalMemoryIsUnique : Prop :=
  ∀ m m' : Memory, m.wf = true → m'.wf = true → (∀ a, a < 4096 → m.get a = m'.get a) → m = m'

/-! ### Families 0, 1, 2, B -/

/-- CLS, the one word 0x00E0, turns every pixel off and changes nothing else, `VF` included (R90). -/
def Obligations.ClsTurnsAllPixelsOff : Prop :=
  (∀ w : Word, decodeWord w = .cls ↔ w = 0x00E0) ∧
  ∀ s : State, ∃ t, exec .cls s = .next t ∧ (∀ r c, t.disp.get r c = false) ∧ Frame [] [.disp] s t

/-- A no-op row has no effect; the TICK that carries it only counts the timers down and advances `PC` (R78). The wrap of
`PC` is D2, log 9; the report output is 0 (a field by log 8, D20), and the event is off the schedule and counted (log 1). -/
def Obligations.NoOpsHaveNoEffect : Prop :=
  (∀ (i : Instr) (s : State), i.isNoOp = true → exec i s = .next s) ∧
  ∀ s : State, s.runState = .running → s.nextEvent = .tick → (decodeWord s.fetchWord).isNoOp = true →
    ∃ t, step s = .next t ∧ t.pc = s.pc + 2 ∧ t.dt.toNat = s.dt.toNat - 1 ∧ t.st.toNat = s.st.toNat - 1 ∧
      t.report = .none ∧ t.inbox = s.inbox.tail ∧ t.sent = s.sent + 1 ∧
      Frame [] [.pc, .dt, .st, .report, .inbox, .sent] s t

/-- RET with a non-empty stack pops: `SP - 1`, `PC` from the vacated slot, which keeps its value (R91; the slot numbering
is the spec's decision D4, log 11). -/
def Obligations.RetPopsIntoPc : Prop :=
  ∀ s : State, 0 < s.sp.toNat → s.sp.toNat ≤ 16 →
    ∃ t, exec .ret s = .next t ∧ t.sp.toNat = s.sp.toNat - 1 ∧ t.pc = s.slot (BitVec.ofNat 4 (s.sp.toNat - 1)) ∧
      Frame [] [.sp, .pc] s t

/-- CALL with room on the stack pushes the post-fetch `PC` into slot `SP`, adds 1 to `SP` and jumps (R94; the slot
numbering is the spec's decision D4, log 11). -/
def Obligations.CallPushesAndJumps : Prop :=
  ∀ (s : State) (nnn : Addr12), s.sp.toNat < 16 →
    ∃ t, exec (.call nnn) s = .next t ∧ t.pc.toNat = nnn.toNat ∧ t.sp.toNat = s.sp.toNat + 1 ∧
      (∀ k : Nibble, t.slot k = if k.toNat = s.sp.toNat then s.pc else s.slot k) ∧
      Frame [] [.pc, .sp, .stack] s t

/-- RET with `SP = 0` and CALL with `SP = 16` take the fault: `Paused`, the report, and nothing else; `PC` keeps the
post-fetch value (R174, R175, R176; D5, log 12; the report field is log 8). -/
def Obligations.StackFaultsPauseAndReport : Prop :=
  (∀ s : State, s.sp = 0 → ∃ t, exec .ret s = .next t ∧ t.runState = .paused ∧ t.report = .stackUnderflow ∧
    Frame [] [.runState, .report] s t) ∧
  ∀ (s : State) (nnn : Addr12), s.sp = 16 → ∃ t, exec (.call nnn) s = .next t ∧ t.runState = .paused ∧
    t.report = .stackOverflow ∧ Frame [] [.runState, .report] s t

/-- A RET that finds the stack as a CALL left it returns to the address after that CALL and restores `SP` (R91, R94; the
slot numbering is D4, log 11). -/
def Obligations.RetUndoesMatchingCall : Prop :=
  ∀ (s : State) (nnn : Addr12), s.sp.toNat < 16 →
    ∃ t, exec (.call nnn) s = .next t ∧
      ∀ u : State, u.sp = t.sp → (∀ k : Nibble, k.toNat < t.sp.toNat → u.slot k = t.slot k) →
        ∃ w, exec .ret u = .next w ∧ w.pc = s.pc ∧ w.sp = s.sp

/-- JP, the words `1nnn`, sets `PC` to `nnn` zero-extended and changes nothing else (R93). -/
def Obligations.JpSetsPc : Prop :=
  (∀ nnn : Addr12, decodeWord (0x1#4 ++ nnn) = .jp nnn) ∧
  ∀ (s : State) (nnn : Addr12), ∃ t, exec (.jp nnn) s = .next t ∧ t.pc.toNat = nnn.toNat ∧ Frame [] [.pc] s t

/-- JP V0 sets `PC` to the full sum of `V[0]` and `nnn`, not reduced to 12 bits (R127; D2, log 9). -/
def Obligations.JpV0AddsOffset : Prop :=
  ∀ (s : State) (nnn : Addr12), ∃ t, exec (.jpV0 nnn) s = .next t ∧ t.pc.toNat = (s.reg 0).toNat + nnn.toNat ∧
    Frame [] [.pc] s t

/-! ### Families 3 to 7 and 9 -/

/-- The four comparing skips add 2 to the post-fetch `PC` exactly when their condition holds, and change nothing else
(R100, R101, R102, R125; the wrap of `PC` at 65536 is D2, log 9). -/
def Obligations.ComparingSkipsMovePc : Prop :=
  ∀ (s : State) (x y : Reg) (kk : Byte) (ign : Nibble),
    (∃ t, exec (.seImm x kk) s = .next t ∧ t.pc = (if s.reg x = kk then s.pc + 2 else s.pc) ∧ Frame [] [.pc] s t) ∧
    (∃ t, exec (.sneImm x kk) s = .next t ∧ t.pc = (if s.reg x = kk then s.pc else s.pc + 2) ∧ Frame [] [.pc] s t) ∧
    (∃ t, exec (.seReg x y ign) s = .next t ∧ t.pc = (if s.reg x = s.reg y then s.pc + 2 else s.pc) ∧
      Frame [] [.pc] s t) ∧
    (∃ t, exec (.sneReg x y ign) s = .next t ∧ t.pc = (if s.reg x = s.reg y then s.pc else s.pc + 2) ∧
      Frame [] [.pc] s t)

/-- LD Vx, kk, the words `6xkk`, puts `kk` in `V[x]`, changes nothing else, and the TICK that runs it advances `PC` by 2
(R103; the wrap of `PC` is D2, log 9). -/
def Obligations.LdImmSetsRegister : Prop :=
  (∀ (x : Reg) (kk : Byte), decodeWord ((0x6#4 ++ x : BitVec 8) ++ kk) = .ldImm x kk) ∧
  (∀ (s : State) (x : Reg) (kk : Byte), ∃ t, exec (.ldImm x kk) s = .next t ∧ t.reg x = kk ∧ Frame [x] [] s t) ∧
  ∀ (s : State) (x : Reg) (kk : Byte), s.runState = .running → s.nextEvent = .tick →
    decodeWord s.fetchWord = .ldImm x kk → ∃ t, step s = .next t ∧ t.reg x = kk ∧ t.pc = s.pc + 2

/-- ADD Vx, kk, the words `7xkk`, adds mod 256 and writes no flag: with `x` other than 15 `VF` is unchanged (R104). -/
def Obligations.AddImmWrapsWithoutFlag : Prop :=
  (∀ (x : Reg) (kk : Byte), decodeWord ((0x7#4 ++ x : BitVec 8) ++ kk) = .addImm x kk) ∧
  ∀ (s : State) (x : Reg) (kk : Byte), ∃ t, exec (.addImm x kk) s = .next t ∧
    (t.reg x).toNat = ((s.reg x).toNat + kk.toNat) % 256 ∧ Frame [x] [] s t

/-! ### Family 8 -/

/-- LD, OR, AND, XOR Vx, Vy, the words `8xy0` to `8xy3`: the bitwise result in `V[x]`, nothing else changed, no flag (R111
to R114). -/
def Obligations.MovesAndLogicWriteOnlyVx : Prop :=
  (∀ x y : Reg, decodeWord ((0x8#4 ++ x : BitVec 8) ++ (y ++ 0x0#4 : BitVec 8)) = .ldReg x y ∧
    decodeWord ((0x8#4 ++ x : BitVec 8) ++ (y ++ 0x1#4 : BitVec 8)) = .orReg x y ∧
    decodeWord ((0x8#4 ++ x : BitVec 8) ++ (y ++ 0x2#4 : BitVec 8)) = .andReg x y ∧
    decodeWord ((0x8#4 ++ x : BitVec 8) ++ (y ++ 0x3#4 : BitVec 8)) = .xorReg x y) ∧
  ∀ (s : State) (x y : Reg),
    (∃ t, exec (.ldReg x y) s = .next t ∧ t.reg x = s.reg y ∧ Frame [x] [] s t) ∧
    (∃ t, exec (.orReg x y) s = .next t ∧ t.reg x = s.reg x ||| s.reg y ∧ Frame [x] [] s t) ∧
    (∃ t, exec (.andReg x y) s = .next t ∧ t.reg x = s.reg x &&& s.reg y ∧ Frame [x] [] s t) ∧
    (∃ t, exec (.xorReg x y) s = .next t ∧ t.reg x = s.reg x ^^^ s.reg y ∧ Frame [x] [] s t)

/-- ADD Vx, Vy: the sum mod 256 and the carry in `VF`; with `x = 15` the carry stays (R115; the order is D6, log 13). -/
def Obligations.AddRegSumsAndCarries : Prop :=
  ∀ (s : State) (x y : Reg), ∃ t, exec (.addReg x y) s = .next t ∧
    (x ≠ 15 → (t.reg x).toNat = ((s.reg x).toNat + (s.reg y).toNat) % 256) ∧
    t.vf = (if 255 < (s.reg x).toNat + (s.reg y).toNat then 1 else 0) ∧ Frame [x, 15] [] s t

/-- SUB Vx, Vy: the difference mod 256 and the inverted borrow in `VF`; with `x = 15` the flag stays (R116; D6, log 13). -/
def Obligations.SubSubtractsAndFlagsNoBorrow : Prop :=
  ∀ (s : State) (x y : Reg), ∃ t, exec (.sub x y) s = .next t ∧
    (x ≠ 15 → (t.reg x).toNat = ((s.reg x).toNat + 256 - (s.reg y).toNat) % 256) ∧
    t.vf = (if (s.reg y).toNat ≤ (s.reg x).toNat then 1 else 0) ∧ Frame [x, 15] [] s t

/-- SHR Vx: half of `V[x]`, the bit shifted out in `VF`, whatever the ignored bits; with `x = 15`, `VF` ends as 0 (R117;
D6, log 13). -/
def Obligations.ShrShiftsOneBitOut : Prop :=
  ∀ (s : State) (x : Reg) (ign : Nibble), ∃ t, exec (.shr x ign) s = .next t ∧
    (x ≠ 15 → (t.reg x).toNat = (s.reg x).toNat / 2 ∧ t.vf.toNat = (s.reg x).toNat % 2) ∧
    (x = 15 → t.vf = 0) ∧ Frame [x, 15] [] s t

/-- SUBN Vx, Vy: `V[x]` is 0 and `VF` is 1, whatever the registers hold (R118; the flag is D7, log 14, the order for
`x = 15` D6, log 13). -/
def Obligations.SubnGivesZeroAndOne : Prop :=
  ∀ (s : State) (x y : Reg), ∃ t, exec (.subn x y) s = .next t ∧ (x ≠ 15 → t.reg x = 0) ∧ t.vf = 1 ∧
    Frame [x, 15] [] s t

/-- SHL Vx, Vy: result and indicator of the machine's `SHL_FN` with amount `V[y]`; where that is the spec's default, the
amount counts mod 8 and the indicator says it was 8 or more (R119; D8 and the choice of `SHL_FN` are log 6; D6, log 13). -/
def Obligations.ShlUsesShlFn : Prop :=
  ∀ (s : State) (x y : Reg), ∃ t, exec (.shl x y) s = .next t ∧
    (x ≠ 15 → t.reg x = (shlFn s.shl (s.reg x) (s.reg y)).1) ∧
    t.vf = (if (shlFn s.shl (s.reg x) (s.reg y)).2 = true then 1 else 0) ∧ Frame [x, 15] [] s t ∧
    (s.shl = .specDefault →
      (x ≠ 15 → (t.reg x).toNat = (s.reg x).toNat * 2 ^ ((s.reg y).toNat % 8) % 256) ∧
      t.vf = if 8 ≤ (s.reg y).toNat then 1 else 0)

/-! ### Families A, C, D, E -/

/-- LD I, nnn, the words `Annn`: `I` is `nnn` zero-extended, nothing else changes; an instruction that moves `I` from
0xFFF or below to above 0xFFF is ADD I, Vx or LD F, Vx (R126). -/
def Obligations.LdISetsIndex : Prop :=
  (∀ nnn : Addr12, decodeWord (0xA#4 ++ nnn) = .ldI nnn) ∧
  (∀ (s : State) (nnn : Addr12), ∃ t, exec (.ldI nnn) s = .next t ∧ t.i.toNat = nnn.toNat ∧ Frame [] [.i] s t) ∧
  ∀ (i : Instr) (s t : State), exec i s = .next t → s.i.toNat ≤ 0xFFF → 0xFFF < t.i.toNat →
    (∃ x, i = .addI x) ∨ ∃ x, i = .ldF x

/-- RND Vx, kk: one byte is drawn, whatever it is, and `V[x]` is that byte AND `kk`; no other instruction draws (R128; the
byte is a free value, log 7: the statement holds for every value of it and of the counter). -/
def Obligations.RndMasksOneDrawnByte : Prop :=
  (∀ (s : State) (x : Reg) (kk : Byte), ∃ t, exec (.rnd x kk) s = .next t ∧ t.reg x = s.drawnByte &&& kk ∧
    t.draws = s.draws + 1 ∧ Frame [x] [.draws] s t) ∧
  ∀ (i : Instr) (s t : State), (∀ x kk, i ≠ .rnd x kk) → exec i s = .next t → t.draws = s.draws

/-- DRW: the compositor draws the `n` bytes at `(I + k) mod 4096` with origin column `V[x]` and row `V[y]` on the display,
`VF` is its collision result, nothing else changes (R130; `n = 0` is D30, log 17; the address wrap is R52, log 10). -/
def Obligations.DrwComposesSprite : Prop :=
  ∀ (s : State) (x y : Reg) (n : Nibble), ∃ (t : State) (rows : List Byte), exec (.drw x y n) s = .next t ∧
    rows.length = n.toNat ∧ (∀ k, k < n.toNat → rows[k]? = some (s.memRead ((s.i.toNat + k) % 4096))) ∧
    t.disp = (compositeSprite (s.reg x) (s.reg y) rows s.disp).1 ∧
    t.vf = (if (compositeSprite (s.reg x) (s.reg y) rows s.disp).2 = true then 1 else 0) ∧
    Frame [15] [.disp] s t

/-- The compositor XORs bit `7 - j` of row `i` into the pixel at row `(oy + i) mod 32`, column `(ox + j) mod 64`, and leaves
every other pixel (R131, R132, R136; rows past 31 wrap by D12, log 17). -/
def Obligations.CompositorXorsTargetPixels : Prop :=
  ∀ (ox oy : Byte) (rows : List Byte) (d : Display), rows.length ≤ 15 →
    (∀ i j, (h : i < rows.length) → j < 8 →
      (compositeSprite ox oy rows d).1.get (oy.toNat + i) (ox.toNat + j) =
        (d.get (oy.toNat + i) (ox.toNat + j) ^^ rows[i].getLsbD (7 - j))) ∧
    ∀ r c, (∀ i j, i < rows.length → j < 8 →
        ¬(r % 32 = (oy.toNat + i) % 32 ∧ c % 64 = (ox.toNat + j) % 64)) →
      (compositeSprite ox oy rows d).1.get r c = d.get r c

/-- The collision result is true exactly when some pixel that was on meets a sprite bit that is on (R133; rows past 31 wrap
by D12, log 17). -/
def Obligations.CollisionIffPixelTurnedOff : Prop :=
  ∀ (ox oy : Byte) (rows : List Byte) (d : Display), rows.length ≤ 15 →
    ((compositeSprite ox oy rows d).2 = true ↔ ∃ i j, ∃ h : i < rows.length, j < 8 ∧
      d.get (oy.toNat + i) (ox.toNat + j) = true ∧ rows[i].getLsbD (7 - j) = true)

/-- Drawing the same sprite again at the same place restores the display (R132). -/
def Obligations.DrawingTwiceRestoresDisplay : Prop :=
  ∀ (ox oy : Byte) (rows : List Byte) (d : Display), rows.length ≤ 15 →
    (compositeSprite ox oy rows (compositeSprite ox oy rows d).1).1 = d

/-- A byte decomposes into its 8 bits, most significant first, and in this order the compositor that DRW hands its bytes to
takes the pixels of a sprite byte: element `j` meets the pixel at column `ox + j` (R83). The premise ends the sprite
at row 31 or before, so that the spec's choice D12 (log 17) has no say; `CompositorXorsTargetPixels` has the rows past it. -/
def Obligations.SpriteBitsMostSignificantFirst : Prop :=
  (∀ b : Byte, (spriteBits b).length = 8 ∧ ∀ j, j < 8 → (spriteBits b)[j]? = some (b.getLsbD (7 - j))) ∧
  spriteBits 0b10101010 = [true, false, true, false, true, false, true, false] ∧
  ∀ (ox oy : Byte) (rows : List Byte) (d : Display), rows.length ≤ 15 → oy.toNat % 32 + rows.length ≤ 32 →
    ∀ i j bit, (h : i < rows.length) → (spriteBits rows[i])[j]? = some bit →
      (compositeSprite ox oy rows d).1.get (oy.toNat + i) (ox.toNat + j) =
        (d.get (oy.toNat + i) (ox.toNat + j) ^^ bit)

/-- SKP and SKNP add 2 to the post-fetch `PC` when the key `V[x] mod 16` is held, or is not, and change nothing else (R140,
R141; the key index above 15 is D9, log 15; the wrap of `PC` D2, log 9). -/
def Obligations.KeySkipsMovePc : Prop :=
  ∀ (s : State) (x : Reg) (k : Nibble), k.toNat = (s.reg x).toNat % 16 →
    (∃ t, exec (.skp x) s = .next t ∧ t.pc = (if s.held k = true then s.pc + 2 else s.pc) ∧ Frame [] [.pc] s t) ∧
    (∃ t, exec (.sknp x) s = .next t ∧ t.pc = (if s.held k = true then s.pc else s.pc + 2) ∧ Frame [] [.pc] s t)

/-! ### Family F -/

/-- LD Vx, DT copies `DT`; in a TICK the value read is the one after that TICK's decrement (R150, R171). -/
def Obligations.LdVxDtReadsDecremented : Prop :=
  (∀ (s : State) (x : Reg), ∃ t, exec (.ldVxDt x) s = .next t ∧ t.reg x = s.dt ∧ Frame [x] [] s t) ∧
  ∀ (s : State) (x : Reg), s.runState = .running → s.nextEvent = .tick → decodeWord s.fetchWord = .ldVxDt x →
    ∃ t, step s = .next t ∧ (t.reg x).toNat = s.dt.toNat - 1 ∧ t.dt = t.reg x

/-- LD DT, Vx and LD ST, Vx, the words `Fx15` and `Fx18`, load the timers; the value is not decremented in the TICK that
writes it but first in the next one, and 0 stays 0; no instruction reads `ST` back: with another value in it before, the
instruction leaves the same state but for `ST` (R152, R153). -/
def Obligations.TimerLoadsAreNotDecremented : Prop :=
  (∀ x : Reg, decodeWord ((0xF#4 ++ x : BitVec 8) ++ 0x15#8) = .ldDtVx x ∧
    decodeWord ((0xF#4 ++ x : BitVec 8) ++ 0x18#8) = .ldStVx x) ∧
  (∀ (s : State) (x : Reg), (∃ t, exec (.ldDtVx x) s = .next t ∧ t.dt = s.reg x ∧ Frame [] [.dt] s t) ∧
    ∃ t, exec (.ldStVx x) s = .next t ∧ t.st = s.reg x ∧ Frame [] [.st] s t) ∧
  (∀ (s : State) (x : Reg), s.runState = .running → s.nextEvent = .tick → decodeWord s.fetchWord = .ldDtVx x →
    ∃ t, step s = .next t ∧ t.dt = s.reg x ∧ t.beforeExecute.dt.toNat = (s.reg x).toNat - 1) ∧
  (∀ (s : State) (x : Reg), s.runState = .running → s.nextEvent = .tick → decodeWord s.fetchWord = .ldStVx x →
    ∃ t, step s = .next t ∧ t.st = s.reg x ∧ t.beforeExecute.st.toNat = (s.reg x).toNat - 1) ∧
  ∀ (i : Instr) (s t : State) (b : Byte), exec i s = .next t → ∃ t', exec i (s.setSt b) = .next t' ∧ t'.setSt t.st = t

/-- LD Vx, K, the words `Fx0A`, enters the wait for a key with target `x`, whatever keys are held, and changes nothing
else; a TICK in the wait changes nothing (its report output is 0, log 8), and a KEY_DOWN writes the key code to `V[x]`
and resumes at the same `PC` (R151). -/
def Obligations.LdVxKEntersKeyWait : Prop :=
  (∀ x : Reg, decodeWord ((0xF#4 ++ x : BitVec 8) ++ 0x0A#8) = .ldVxK x) ∧
  ∀ (s : State) (x : Reg), ∃ t, exec (.ldVxK x) s = .next t ∧ t.runState = .waitingForKey x ∧
    Frame [] [.runState] s t ∧
    (∃ u, deliver .tick t = .next u ∧ Frame [] [.report] t u) ∧
    ∀ k : Nibble, ∃ u, deliver (.keyDown k) t = .next u ∧ (u.reg x).toNat = k.toNat ∧ u.runState = .running ∧ u.pc = t.pc

/-- ADD I, Vx adds mod 65536 without a flag, LD F, Vx puts five times the whole byte in `I` (R154, R155; the wrap is D10,
the width of the product D11, log 16). -/
def Obligations.IndexArithmetic : Prop :=
  ∀ (s : State) (x : Reg),
    (∃ t, exec (.addI x) s = .next t ∧ t.i.toNat = (s.i.toNat + (s.reg x).toNat) % 65536 ∧ Frame [] [.i] s t) ∧
    ∃ t, exec (.ldF x) s = .next t ∧ t.i.toNat = (s.reg x).toNat * 5 ∧ Frame [] [.i] s t

/-- LD B, Vx stores the three decimal digits of `V[x]` at `(I + 0)`, `(I + 1)`, `(I + 2)` mod 4096, each 0 to 9, and
nothing else (R156; the address wrap is D3, log 10; that a store lands below 0x200 too is D25, log 22). -/
def Obligations.LdBStoresDecimalDigits : Prop :=
  ∀ (s : State) (x : Reg), ∃ t, exec (.ldB x) s = .next t ∧
    (t.memRead (s.dataAddr 0)).toNat = (s.reg x).toNat / 100 ∧
    (t.memRead (s.dataAddr 1)).toNat = (s.reg x).toNat / 10 % 10 ∧
    (t.memRead (s.dataAddr 2)).toNat = (s.reg x).toNat % 10 ∧
    (∀ a, (∀ k, k < 3 → a % 4096 ≠ s.dataAddr k) → t.memRead a = s.memRead a) ∧ Frame [] [.mem] s t

/-- LD [I], Vx stores `V[k]` at `(I + k) mod 4096` for every `k` from 0 to `x` and nothing else; `I` is unchanged (R157;
D29, log 22; the address wrap is D3, log 10; that a store lands below 0x200 too is D25, log 22). -/
def Obligations.StoreWritesRegisterBlock : Prop :=
  ∀ (s : State) (x : Reg), ∃ t, exec (.store x) s = .next t ∧
    (∀ z : Reg, z.toNat ≤ x.toNat → t.memRead (s.dataAddr z.toNat) = s.reg z) ∧
    (∀ a, (∀ k, k ≤ x.toNat → a % 4096 ≠ s.dataAddr k) → t.memRead a = s.memRead a) ∧ Frame [] [.mem] s t

/-- LD Vx, [I] loads `V[k]` from `(I + k) mod 4096` for every `k` from 0 to `x`; registers above `x`, `I` and memory are
unchanged (R158; D29, log 22; the address wrap is R52, log 10). -/
def Obligations.LoadReadsRegisterBlock : Prop :=
  ∀ (s : State) (x : Reg), ∃ t, exec (.load x) s = .next t ∧
    (∀ z : Reg, t.reg z = if z.toNat ≤ x.toNat then s.memRead (s.dataAddr z.toNat) else s.reg z) ∧
    Frame (blockRegs x) [] s t

/-- Storing a block and loading it again, with `I` and memory left as the store left them, restores its registers (R157,
R158; that `I` and stores below 0x200 stay is D29 and D25, log 22; the address wrap is D3, log 10). -/
def Obligations.LoadAfterStoreRestoresBlock : Prop :=
  ∀ (s : State) (x : Reg), ∃ t, exec (.store x) s = .next t ∧
    ∀ u : State, u.i = t.i → (∀ a, u.memRead a = t.memRead a) →
      ∃ w, exec (.load x) u = .next w ∧ ∀ z : Reg, z.toNat ≤ x.toNat → w.reg z = s.reg z

/-! ### Events -/

/-- KEY_DOWN(k) sets the flag of `k` in every state; in `WaitingForKey(r)` it also writes `k` to `V[r]`, `r = 15` included,
and resumes; KEY_UP(k) clears the flag and nothing else (R182, R183, R184; the flag in the wait state is D19, log 19). -/
def Obligations.KeyEventsSetFlagsAndEndWait : Prop :=
  ∀ (s : State) (k : Nibble),
    (∀ r, s.runState = .waitingForKey r → ∃ t, deliver (.keyDown k) s = .next t ∧ (t.reg r).toNat = k.toNat ∧
      t.runState = .running ∧ (∀ j, t.held j = if j = k then true else s.held j) ∧
      Frame [r] [.key, .runState] s t) ∧
    ((∀ r, s.runState ≠ .waitingForKey r) → ∃ t, deliver (.keyDown k) s = .next t ∧
      (∀ j, t.held j = if j = k then true else s.held j) ∧ Frame [] [.key] s t) ∧
    ∃ t, deliver (.keyUp k) s = .next t ∧ (∀ j, t.held j = if j = k then false else s.held j) ∧ Frame [] [.key] s t

/-- PAUSE_REQ moves `Running` to `Paused`, RESUME_REQ `Paused` to `Running`, and neither does anything else or anything in
another state (R180, R181; the other states are D18, log 19); the reads change nothing (R188, R189). -/
def Obligations.RequestsMoveOnlyTheirState : Prop :=
  ∀ s : State,
    (∃ t, deliver .pauseReq s = .next t ∧
      t.runState = (if s.runState = .running then .paused else s.runState) ∧ Frame [] [.runState] s t) ∧
    (∃ t, deliver .resumeReq s = .next t ∧
      t.runState = (if s.runState = .paused then .running else s.runState) ∧ Frame [] [.runState] s t) ∧
    deliver .dbgRead s = .next s ∧ deliver .displayRead s = .next s

/-- DBG_WRITE does nothing unless the machine is `Paused`, and then writes its target and nothing else; `SP` above 16 is
refused (R189; the targets are D21, log 20). -/
def Obligations.DebugWritesOnlyWhilePaused : Prop :=
  (∀ (s : State) (g : DbgTarget), s.runState ≠ .paused → deliver (.dbgWrite g) s = .next s) ∧
  (∀ (s : State) (x : Reg) (b : Byte), s.runState = .paused → ∃ t, deliver (.dbgWrite (.v x b)) s = .next t ∧
    t.reg x = b ∧ Frame [x] [] s t) ∧
  (∀ (s : State) (k : Nibble) (w : Word), s.runState = .paused → ∃ t, deliver (.dbgWrite (.stack k w)) s = .next t ∧
    (∀ j, t.slot j = if j = k then w else s.slot j) ∧ Frame [] [.stack] s t) ∧
  (∀ (s : State) (n : Byte), s.runState = .paused → ∃ t, deliver (.dbgWrite (.sp n)) s = .next t ∧
    t.sp = (if n.toNat ≤ 16 then n else s.sp) ∧ Frame [] [.sp] s t) ∧
  ∀ (s : State) (b : Byte) (w : Word), s.runState = .paused →
    (∃ t, deliver (.dbgWrite (.i w)) s = .next t ∧ t.i = w ∧ Frame [] [.i] s t) ∧
    (∃ t, deliver (.dbgWrite (.pc w)) s = .next t ∧ t.pc = w ∧ Frame [] [.pc] s t) ∧
    (∃ t, deliver (.dbgWrite (.dt b)) s = .next t ∧ t.dt = b ∧ Frame [] [.dt] s t) ∧
    ∃ t, deliver (.dbgWrite (.st b)) s = .next t ∧ t.st = b ∧ Frame [] [.st] s t

/-- After an accepted LOAD, memory from 0x200 on holds the image (R65), and a byte keeps its value through every event
that is no LOAD, no RESET and no TICK in `Running` whose instruction stores there. The limit of an accepted LOAD is D17,
log 18; that a RESET may come later is log 23; that DBG_WRITE reaches no memory is D21, log 20; the addresses stored to are
D3, log 10. -/
def Obligations.LoadedImageReadsBack : Prop :=
  (∀ (s : State) (image : List Byte), image.length ≤ 3584 → ∃ t, deliver (.load image) s = .next t ∧
    ∀ k (h : k < image.length), t.memRead (0x200 + k) = image[k]) ∧
  ∀ (e : Event) (s t : State) (a : Nat), deliver e s = .next t → (∀ image, e ≠ .load image) →
    (∀ font, e ≠ .reset font) →
    (e = .tick → s.runState = .running → ∀ k, k < storedBytes (decodeWord s.fetchWord) → a % 4096 ≠ s.dataAddr k) →
    t.memRead a = s.memRead a

/-- LOAD of at most 3584 bytes resets the registers, the stack, the timers, `PC`, the display and `STATE`, and keeps the key
flags and all memory outside the image; a longer image changes nothing (R201, R202; the zeros are D15, log 3, the reach
and the limit D16 and D17, log 18). -/
def Obligations.LoadResetsAllButKeysAndRest : Prop :=
  (∀ (s : State) (image : List Byte), image.length ≤ 3584 → ∃ t, deliver (.load image) s = .next t ∧
    (∀ x, t.reg x = 0) ∧ t.i = 0 ∧ t.pc = 0x200 ∧ t.sp = 0 ∧ (∀ k, t.slot k = 0) ∧ t.dt = 0 ∧ t.st = 0 ∧
    (∀ r c, t.disp.get r c = false) ∧ t.runState = .paused ∧ (∀ k, t.held k = s.held k) ∧
    ∀ a, a < 4096 → (a < 0x200 ∨ 0x200 + image.length ≤ a) → t.memRead a = s.memRead a) ∧
  ∀ (s : State) (image : List Byte), 3584 < image.length → deliver (.load image) s = .next s

/-- After reset, after RESET with any `FONT` (in any state, log 23) and after an accepted LOAD, a TICK fetches nothing and
changes nothing (its report output is 0, log 8); RESUME_REQ then makes the machine `Running` and the first word fetched is
the one at 0x200 (R36; the limit of an accepted LOAD is D17, log 18). -/
def Obligations.ExecutionStartsAt200AfterResume : Prop :=
  ∀ s : State, (s = State.reset ∨ (∃ u font, deliver (.reset font) u = .next s) ∨
      ∃ u image, image.length ≤ 3584 ∧ deliver (.load image) u = .next s) →
    (∃ t, deliver .tick s = .next t ∧ Frame [] [.report] s t) ∧
    ∃ t, deliver .resumeReq s = .next t ∧ t.runState = .running ∧
      t.fetchWord = wordOfBytes (s.memRead 0x200) (s.memRead 0x201) ∧ Frame [] [.runState] s t
end

