-- ==== Sys2Proof/Laws/Compositor.lean ====
section
/-! SUPPORT. The display and the compositor: a pixel read after a write, and what drawing leaves alone (spec/44_famD_draw.md). -/

namespace Sys2Proof.Machine

theorem Display.get_put (d : Display) (r c : Nat) (p : Bool) (r' c' : Nat) :
    (d.put r c p).get r' c' = if r' % 32 = r % 32 ∧ c' % 64 = c % 64 then p else d.get r' c' := by
  unfold Display.get Display.put
  by_cases hr : r' % 32 = r % 32
  · by_cases hc : c' % 64 = c % 64
    · simp [hr, hc]
    · simp [hr, Ne.symm hc, hc]
  · simp [Ne.symm hr, hr]

/-- Two displays with the same pixels are equal. -/
theorem Display.ext_get (d d' : Display) (h : ∀ r c, d.get r c = d'.get r c) : d = d' := by
  apply Vector.ext
  intro r hr
  apply Vector.ext
  intro c hc
  have := h r c
  simpa only [Display.get, Nat.mod_eq_of_lt hr, Nat.mod_eq_of_lt hc] using this

theorem Display.get_mod (d : Display) (r c : Nat) : d.get (r % 32) (c % 64) = d.get r c := by
  simp only [Display.get, Nat.mod_mod]

theorem Display.get_blank (r c : Nat) : Display.blank.get r c = false := by
  simp [Display.get, Display.blank]

theorem length_spriteBits (b : Byte) : (spriteBits b).length = 8 := rfl

theorem getElem_spriteBits (b : Byte) (j : Nat) (h : j < (spriteBits b).length) :
    (spriteBits b)[j] = b.getLsbD (7 - j) := by simp [spriteBits]

/-- One sprite row of at most 64 pixels: the pixels it covers are toggled by their bits, all others stay, and the collision
result gains exactly the covered pixels that were on under an on bit. -/
theorem drawBits_spec (r c : Nat) (bits : List Bool) (acc : Display × Bool) (hlen : bits.length ≤ 64) :
    (∀ j, (h : j < bits.length) →
      (drawBits r c bits acc).1.get r (c + j) = (acc.1.get r (c + j) ^^ bits[j])) ∧
    (∀ r' c', (r' % 32 ≠ r % 32 ∨ ∀ j, j < bits.length → c' % 64 ≠ (c + j) % 64) →
      (drawBits r c bits acc).1.get r' c' = acc.1.get r' c') ∧
    ((drawBits r c bits acc).2 = true ↔
      acc.2 = true ∨ ∃ j, ∃ h : j < bits.length, acc.1.get r (c + j) = true ∧ bits[j] = true) := by
  induction bits generalizing c acc with
  | nil => simp [drawBits]
  | cons bit bits ih =>
    simp only [List.length_cons] at hlen
    obtain ⟨ih1, ih2, ih3⟩ := ih (c + 1) (drawPixel r c bit acc) (by omega)
    have hother : ∀ j, j < bits.length →
        (drawPixel r c bit acc).1.get r (c + 1 + j) = acc.1.get r (c + 1 + j) := by
      intro j hj
      rw [drawPixel, Display.get_put, if_neg (by omega)]
    refine ⟨?_, ?_, ?_⟩
    · intro j hj
      cases j with
      | zero =>
        rw [drawBits, ih2 r (c + 0) (Or.inr fun j hj => by omega), drawPixel, Display.get_put, if_pos (by simp)]
        rfl
      | succ j =>
        have hj' : j < bits.length := by simpa using hj
        rw [drawBits, show c + (j + 1) = c + 1 + j by omega, ih1 j hj', hother j hj']
        rfl
    · intro r' c' h
      have hpix : (drawPixel r c bit acc).1.get r' c' = acc.1.get r' c' := by
        rw [drawPixel, Display.get_put, if_neg]
        rintro ⟨hr, hc⟩
        rcases h with h | h
        · exact h hr
        · exact h 0 (by simp) hc
      rw [drawBits, ih2 r' c' ?_, hpix]
      rcases h with h | h
      · exact Or.inl h
      · refine Or.inr fun j hj => ?_
        have := h (j + 1) (by simpa using hj)
        rwa [show c + 1 + j = c + (j + 1) by omega]
    · rw [drawBits, ih3]
      simp only [drawPixel, Bool.or_eq_true, Bool.and_eq_true]
      constructor
      · rintro ((h | h) | ⟨j, hj, hget, hbit⟩)
        · exact Or.inl h
        · exact Or.inr ⟨0, by simp, h.1, h.2⟩
        · refine Or.inr ⟨j + 1, by simpa using hj, ?_, hbit⟩
          rw [show c + (j + 1) = c + 1 + j by omega, ← hother j hj]; exact hget
      · rintro (h | ⟨j, hj, hget, hbit⟩)
        · exact Or.inl (Or.inl h)
        · cases j with
          | zero => exact Or.inl (Or.inr ⟨hget, hbit⟩)
          | succ j =>
            have hj' : j < bits.length := by simpa using hj
            refine Or.inr ⟨j, hj', ?_, hbit⟩
            have := hother j hj'
            rw [drawPixel] at this
            rw [this, show c + 1 + j = c + (j + 1) by omega]; exact hget

/-- A row the sprite does not reach is not drawn on. -/
theorem drawRows_get_of_ne (ox r : Nat) (rows : List Byte) (acc : Display × Bool) (r' c' : Nat)
    (h : ∀ i, i < rows.length → r' % 32 ≠ (r + i) % 32) :
    (drawRows ox r rows acc).1.get r' c' = acc.1.get r' c' := by
  induction rows generalizing r acc with
  | nil => rfl
  | cons b rows ih =>
    rw [drawRows, ih]
    · exact (drawBits_spec r ox (spriteBits b) acc (by simp [length_spriteBits])).2.1 r' c'
        (Or.inl (h 0 (by simp)))
    · intro i hi
      have := h (i + 1) (by simpa using hi)
      rwa [show r + 1 + i = r + (i + 1) by omega]

end Sys2Proof.Machine
end

