-- ==== Sys2Proof/Laws/Decode.lean ====
section
/-! SUPPORT. The fields of a word and the words of the formats as numbers (spec/30_encoding.md R72, R73). -/

namespace Sys2Proof

theorem toNat_fieldOp (w : Word) : (fieldOp w).toNat = w.toNat / 4096 := by
  have := w.isLt
  simp only [fieldOp, BitVec.extractLsb'_toNat, Nat.shiftRight_eq_div_pow]
  omega

theorem toNat_fieldX (w : Word) : (fieldX w).toNat = w.toNat / 256 % 16 := by
  simp only [fieldX, BitVec.extractLsb'_toNat, Nat.shiftRight_eq_div_pow]

theorem toNat_fieldY (w : Word) : (fieldY w).toNat = w.toNat / 16 % 16 := by
  simp only [fieldY, BitVec.extractLsb'_toNat, Nat.shiftRight_eq_div_pow]

theorem toNat_fieldN (w : Word) : (fieldN w).toNat = w.toNat % 16 := by
  simp only [fieldN, BitVec.extractLsb'_toNat, Nat.shiftRight_eq_div_pow]
  omega

theorem toNat_fieldKk (w : Word) : (fieldKk w).toNat = w.toNat % 256 := by
  simp only [fieldKk, BitVec.extractLsb'_toNat, Nat.shiftRight_eq_div_pow]
  omega

theorem toNat_fieldNnn (w : Word) : (fieldNnn w).toNat = w.toNat % 4096 := by
  simp only [fieldNnn, BitVec.extractLsb'_toNat, Nat.shiftRight_eq_div_pow]
  omega

/-- A concatenation as a number: the first part in the high bits (00_scope.md R6). -/
theorem toNat_append {m n : Nat} (a : BitVec m) (b : BitVec n) : (a ++ b).toNat = a.toNat * 2 ^ n + b.toNat := by
  rw [BitVec.toNat_append, ← Nat.shiftLeft_add_eq_or_of_lt b.isLt, Nat.shiftLeft_eq]

theorem toNat_wordA (op : Nibble) (nnn : Addr12) : (wordA op nnn).toNat = op.toNat * 4096 + nnn.toNat :=
  toNat_append op nnn

theorem toNat_wordXK (op : Nibble) (x : Reg) (kk : Byte) :
    (wordXK op x kk).toNat = op.toNat * 4096 + x.toNat * 256 + kk.toNat := by
  have h1 := toNat_append (op ++ x : BitVec 8) kk
  have h2 := toNat_append op x
  rw [show (wordXK op x kk).toNat = ((op ++ x : BitVec 8) ++ kk).toNat from rfl, h1,
    show (op ++ x : BitVec 8).toNat = _ from h2]
  omega

theorem toNat_wordXYN (op : Nibble) (x y : Reg) (n : Nibble) :
    (wordXYN op x y n).toNat = op.toNat * 4096 + x.toNat * 256 + y.toNat * 16 + n.toNat := by
  have h1 := toNat_append (op ++ x : BitVec 8) (y ++ n : BitVec 8)
  have h2 := toNat_append op x
  have h3 := toNat_append y n
  rw [show (wordXYN op x y n).toNat = ((op ++ x : BitVec 8) ++ (y ++ n : BitVec 8)).toNat from rfl, h1,
    show (op ++ x : BitVec 8).toNat = _ from h2, show (y ++ n : BitVec 8).toNat = _ from h3]
  omega

theorem toNat_wordOfBytes (b0 b1 : Byte) : (wordOfBytes b0 b1).toNat = b0.toNat * 256 + b1.toNat :=
  toNat_append b0 b1

/-- The two bytes of a word, joined, are the word (R55). -/
theorem wordOfBytes_bytes (w : Word) : wordOfBytes (highByte w) (lowByte w) = w := by
  apply BitVec.eq_of_toNat_eq
  have := w.isLt
  rw [toNat_wordOfBytes]
  simp only [highByte, lowByte, BitVec.extractLsb'_toNat, Nat.shiftRight_eq_div_pow]
  omega

end Sys2Proof
end

