-- ==== Sys2Proof/Laws/State.lean ====
section
/-! SUPPORT. For each update of State, what each field and each accessor reads after it, true by rfl. -/

namespace Sys2Proof.Machine

variable (s : State)

/-! ### setReg -/

@[simp] theorem State.setReg_i (x : Reg) (b : Byte) : (s.setReg x b).i = s.i := rfl
@[simp] theorem State.setReg_pc (x : Reg) (b : Byte) : (s.setReg x b).pc = s.pc := rfl
@[simp] theorem State.setReg_sp (x : Reg) (b : Byte) : (s.setReg x b).sp = s.sp := rfl
@[simp] theorem State.setReg_stack (x : Reg) (b : Byte) : (s.setReg x b).stack = s.stack := rfl
@[simp] theorem State.setReg_dt (x : Reg) (b : Byte) : (s.setReg x b).dt = s.dt := rfl
@[simp] theorem State.setReg_st (x : Reg) (b : Byte) : (s.setReg x b).st = s.st := rfl
@[simp] theorem State.setReg_key (x : Reg) (b : Byte) : (s.setReg x b).key = s.key := rfl
@[simp] theorem State.setReg_disp (x : Reg) (b : Byte) : (s.setReg x b).disp = s.disp := rfl
@[simp] theorem State.setReg_runState (x : Reg) (b : Byte) : (s.setReg x b).runState = s.runState := rfl
@[simp] theorem State.setReg_mem (x : Reg) (b : Byte) : (s.setReg x b).mem = s.mem := rfl
@[simp] theorem State.setReg_report (x : Reg) (b : Byte) : (s.setReg x b).report = s.report := rfl
@[simp] theorem State.setReg_draws (x : Reg) (b : Byte) : (s.setReg x b).draws = s.draws := rfl
@[simp] theorem State.setReg_shl (x : Reg) (b : Byte) : (s.setReg x b).shl = s.shl := rfl
@[simp] theorem State.setReg_inbox (x : Reg) (b : Byte) : (s.setReg x b).inbox = s.inbox := rfl
@[simp] theorem State.setReg_host (x : Reg) (b : Byte) : (s.setReg x b).host = s.host := rfl
@[simp] theorem State.setReg_sent (x : Reg) (b : Byte) : (s.setReg x b).sent = s.sent := rfl
@[simp] theorem State.slot_setReg (x : Reg) (b : Byte) (j : Nibble) : (s.setReg x b).slot j = s.slot j := rfl
@[simp] theorem State.held_setReg (x : Reg) (b : Byte) (j : Nibble) : (s.setReg x b).held j = s.held j := rfl
@[simp] theorem State.memRead_setReg (x : Reg) (b : Byte) (a : Nat) : (s.setReg x b).memRead a = s.memRead a := rfl
@[simp] theorem State.dataAddr_setReg (x : Reg) (b : Byte) (j : Nat) : (s.setReg x b).dataAddr j = s.dataAddr j := rfl
@[simp] theorem State.readData_setReg (x : Reg) (b : Byte) (j : Nat) : (s.setReg x b).readData j = s.readData j := rfl

/-! ### setI -/

@[simp] theorem State.setI_v (w : Word) : (s.setI w).v = s.v := rfl
@[simp] theorem State.setI_i (w : Word) : (s.setI w).i = w := rfl
@[simp] theorem State.setI_pc (w : Word) : (s.setI w).pc = s.pc := rfl
@[simp] theorem State.setI_sp (w : Word) : (s.setI w).sp = s.sp := rfl
@[simp] theorem State.setI_stack (w : Word) : (s.setI w).stack = s.stack := rfl
@[simp] theorem State.setI_dt (w : Word) : (s.setI w).dt = s.dt := rfl
@[simp] theorem State.setI_st (w : Word) : (s.setI w).st = s.st := rfl
@[simp] theorem State.setI_key (w : Word) : (s.setI w).key = s.key := rfl
@[simp] theorem State.setI_disp (w : Word) : (s.setI w).disp = s.disp := rfl
@[simp] theorem State.setI_runState (w : Word) : (s.setI w).runState = s.runState := rfl
@[simp] theorem State.setI_mem (w : Word) : (s.setI w).mem = s.mem := rfl
@[simp] theorem State.setI_report (w : Word) : (s.setI w).report = s.report := rfl
@[simp] theorem State.setI_draws (w : Word) : (s.setI w).draws = s.draws := rfl
@[simp] theorem State.setI_shl (w : Word) : (s.setI w).shl = s.shl := rfl
@[simp] theorem State.setI_inbox (w : Word) : (s.setI w).inbox = s.inbox := rfl
@[simp] theorem State.setI_host (w : Word) : (s.setI w).host = s.host := rfl
@[simp] theorem State.setI_sent (w : Word) : (s.setI w).sent = s.sent := rfl
@[simp] theorem State.reg_setI (w : Word) (z : Reg) : (s.setI w).reg z = s.reg z := rfl
@[simp] theorem State.slot_setI (w : Word) (j : Nibble) : (s.setI w).slot j = s.slot j := rfl
@[simp] theorem State.held_setI (w : Word) (j : Nibble) : (s.setI w).held j = s.held j := rfl
@[simp] theorem State.memRead_setI (w : Word) (a : Nat) : (s.setI w).memRead a = s.memRead a := rfl

/-! ### setPc -/

@[simp] theorem State.setPc_v (w : Word) : (s.setPc w).v = s.v := rfl
@[simp] theorem State.setPc_i (w : Word) : (s.setPc w).i = s.i := rfl
@[simp] theorem State.setPc_pc (w : Word) : (s.setPc w).pc = w := rfl
@[simp] theorem State.setPc_sp (w : Word) : (s.setPc w).sp = s.sp := rfl
@[simp] theorem State.setPc_stack (w : Word) : (s.setPc w).stack = s.stack := rfl
@[simp] theorem State.setPc_dt (w : Word) : (s.setPc w).dt = s.dt := rfl
@[simp] theorem State.setPc_st (w : Word) : (s.setPc w).st = s.st := rfl
@[simp] theorem State.setPc_key (w : Word) : (s.setPc w).key = s.key := rfl
@[simp] theorem State.setPc_disp (w : Word) : (s.setPc w).disp = s.disp := rfl
@[simp] theorem State.setPc_runState (w : Word) : (s.setPc w).runState = s.runState := rfl
@[simp] theorem State.setPc_mem (w : Word) : (s.setPc w).mem = s.mem := rfl
@[simp] theorem State.setPc_report (w : Word) : (s.setPc w).report = s.report := rfl
@[simp] theorem State.setPc_draws (w : Word) : (s.setPc w).draws = s.draws := rfl
@[simp] theorem State.setPc_shl (w : Word) : (s.setPc w).shl = s.shl := rfl
@[simp] theorem State.setPc_inbox (w : Word) : (s.setPc w).inbox = s.inbox := rfl
@[simp] theorem State.setPc_host (w : Word) : (s.setPc w).host = s.host := rfl
@[simp] theorem State.setPc_sent (w : Word) : (s.setPc w).sent = s.sent := rfl
@[simp] theorem State.reg_setPc (w : Word) (z : Reg) : (s.setPc w).reg z = s.reg z := rfl
@[simp] theorem State.slot_setPc (w : Word) (j : Nibble) : (s.setPc w).slot j = s.slot j := rfl
@[simp] theorem State.held_setPc (w : Word) (j : Nibble) : (s.setPc w).held j = s.held j := rfl
@[simp] theorem State.memRead_setPc (w : Word) (a : Nat) : (s.setPc w).memRead a = s.memRead a := rfl
@[simp] theorem State.dataAddr_setPc (w : Word) (j : Nat) : (s.setPc w).dataAddr j = s.dataAddr j := rfl
@[simp] theorem State.readData_setPc (w : Word) (j : Nat) : (s.setPc w).readData j = s.readData j := rfl

/-! ### setSp -/

@[simp] theorem State.setSp_v (n : Byte) : (s.setSp n).v = s.v := rfl
@[simp] theorem State.setSp_i (n : Byte) : (s.setSp n).i = s.i := rfl
@[simp] theorem State.setSp_pc (n : Byte) : (s.setSp n).pc = s.pc := rfl
@[simp] theorem State.setSp_sp (n : Byte) : (s.setSp n).sp = n := rfl
@[simp] theorem State.setSp_stack (n : Byte) : (s.setSp n).stack = s.stack := rfl
@[simp] theorem State.setSp_dt (n : Byte) : (s.setSp n).dt = s.dt := rfl
@[simp] theorem State.setSp_st (n : Byte) : (s.setSp n).st = s.st := rfl
@[simp] theorem State.setSp_key (n : Byte) : (s.setSp n).key = s.key := rfl
@[simp] theorem State.setSp_disp (n : Byte) : (s.setSp n).disp = s.disp := rfl
@[simp] theorem State.setSp_runState (n : Byte) : (s.setSp n).runState = s.runState := rfl
@[simp] theorem State.setSp_mem (n : Byte) : (s.setSp n).mem = s.mem := rfl
@[simp] theorem State.setSp_report (n : Byte) : (s.setSp n).report = s.report := rfl
@[simp] theorem State.setSp_draws (n : Byte) : (s.setSp n).draws = s.draws := rfl
@[simp] theorem State.setSp_shl (n : Byte) : (s.setSp n).shl = s.shl := rfl
@[simp] theorem State.setSp_inbox (n : Byte) : (s.setSp n).inbox = s.inbox := rfl
@[simp] theorem State.setSp_host (n : Byte) : (s.setSp n).host = s.host := rfl
@[simp] theorem State.setSp_sent (n : Byte) : (s.setSp n).sent = s.sent := rfl
@[simp] theorem State.reg_setSp (n : Byte) (z : Reg) : (s.setSp n).reg z = s.reg z := rfl
@[simp] theorem State.slot_setSp (n : Byte) (j : Nibble) : (s.setSp n).slot j = s.slot j := rfl
@[simp] theorem State.held_setSp (n : Byte) (j : Nibble) : (s.setSp n).held j = s.held j := rfl
@[simp] theorem State.memRead_setSp (n : Byte) (a : Nat) : (s.setSp n).memRead a = s.memRead a := rfl
@[simp] theorem State.dataAddr_setSp (n : Byte) (j : Nat) : (s.setSp n).dataAddr j = s.dataAddr j := rfl
@[simp] theorem State.readData_setSp (n : Byte) (j : Nat) : (s.setSp n).readData j = s.readData j := rfl

/-! ### setSlot -/

@[simp] theorem State.setSlot_v (k : Nibble) (w : Word) : (s.setSlot k w).v = s.v := rfl
@[simp] theorem State.setSlot_i (k : Nibble) (w : Word) : (s.setSlot k w).i = s.i := rfl
@[simp] theorem State.setSlot_pc (k : Nibble) (w : Word) : (s.setSlot k w).pc = s.pc := rfl
@[simp] theorem State.setSlot_sp (k : Nibble) (w : Word) : (s.setSlot k w).sp = s.sp := rfl
@[simp] theorem State.setSlot_dt (k : Nibble) (w : Word) : (s.setSlot k w).dt = s.dt := rfl
@[simp] theorem State.setSlot_st (k : Nibble) (w : Word) : (s.setSlot k w).st = s.st := rfl
@[simp] theorem State.setSlot_key (k : Nibble) (w : Word) : (s.setSlot k w).key = s.key := rfl
@[simp] theorem State.setSlot_disp (k : Nibble) (w : Word) : (s.setSlot k w).disp = s.disp := rfl
@[simp] theorem State.setSlot_runState (k : Nibble) (w : Word) : (s.setSlot k w).runState = s.runState := rfl
@[simp] theorem State.setSlot_mem (k : Nibble) (w : Word) : (s.setSlot k w).mem = s.mem := rfl
@[simp] theorem State.setSlot_report (k : Nibble) (w : Word) : (s.setSlot k w).report = s.report := rfl
@[simp] theorem State.setSlot_draws (k : Nibble) (w : Word) : (s.setSlot k w).draws = s.draws := rfl
@[simp] theorem State.setSlot_shl (k : Nibble) (w : Word) : (s.setSlot k w).shl = s.shl := rfl
@[simp] theorem State.setSlot_inbox (k : Nibble) (w : Word) : (s.setSlot k w).inbox = s.inbox := rfl
@[simp] theorem State.setSlot_host (k : Nibble) (w : Word) : (s.setSlot k w).host = s.host := rfl
@[simp] theorem State.setSlot_sent (k : Nibble) (w : Word) : (s.setSlot k w).sent = s.sent := rfl
@[simp] theorem State.reg_setSlot (k : Nibble) (w : Word) (z : Reg) : (s.setSlot k w).reg z = s.reg z := rfl
@[simp] theorem State.held_setSlot (k : Nibble) (w : Word) (j : Nibble) : (s.setSlot k w).held j = s.held j := rfl
@[simp] theorem State.memRead_setSlot (k : Nibble) (w : Word) (a : Nat) : (s.setSlot k w).memRead a = s.memRead a := rfl
@[simp] theorem State.dataAddr_setSlot (k : Nibble) (w : Word) (j : Nat) : (s.setSlot k w).dataAddr j = s.dataAddr j := rfl
@[simp] theorem State.readData_setSlot (k : Nibble) (w : Word) (j : Nat) : (s.setSlot k w).readData j = s.readData j := rfl

/-! ### setDt -/

@[simp] theorem State.setDt_v (b : Byte) : (s.setDt b).v = s.v := rfl
@[simp] theorem State.setDt_i (b : Byte) : (s.setDt b).i = s.i := rfl
@[simp] theorem State.setDt_pc (b : Byte) : (s.setDt b).pc = s.pc := rfl
@[simp] theorem State.setDt_sp (b : Byte) : (s.setDt b).sp = s.sp := rfl
@[simp] theorem State.setDt_stack (b : Byte) : (s.setDt b).stack = s.stack := rfl
@[simp] theorem State.setDt_dt (b : Byte) : (s.setDt b).dt = b := rfl
@[simp] theorem State.setDt_st (b : Byte) : (s.setDt b).st = s.st := rfl
@[simp] theorem State.setDt_key (b : Byte) : (s.setDt b).key = s.key := rfl
@[simp] theorem State.setDt_disp (b : Byte) : (s.setDt b).disp = s.disp := rfl
@[simp] theorem State.setDt_runState (b : Byte) : (s.setDt b).runState = s.runState := rfl
@[simp] theorem State.setDt_mem (b : Byte) : (s.setDt b).mem = s.mem := rfl
@[simp] theorem State.setDt_report (b : Byte) : (s.setDt b).report = s.report := rfl
@[simp] theorem State.setDt_draws (b : Byte) : (s.setDt b).draws = s.draws := rfl
@[simp] theorem State.setDt_shl (b : Byte) : (s.setDt b).shl = s.shl := rfl
@[simp] theorem State.setDt_inbox (b : Byte) : (s.setDt b).inbox = s.inbox := rfl
@[simp] theorem State.setDt_host (b : Byte) : (s.setDt b).host = s.host := rfl
@[simp] theorem State.setDt_sent (b : Byte) : (s.setDt b).sent = s.sent := rfl
@[simp] theorem State.reg_setDt (b : Byte) (z : Reg) : (s.setDt b).reg z = s.reg z := rfl
@[simp] theorem State.slot_setDt (b : Byte) (j : Nibble) : (s.setDt b).slot j = s.slot j := rfl
@[simp] theorem State.held_setDt (b : Byte) (j : Nibble) : (s.setDt b).held j = s.held j := rfl
@[simp] theorem State.memRead_setDt (b : Byte) (a : Nat) : (s.setDt b).memRead a = s.memRead a := rfl
@[simp] theorem State.dataAddr_setDt (b : Byte) (j : Nat) : (s.setDt b).dataAddr j = s.dataAddr j := rfl
@[simp] theorem State.readData_setDt (b : Byte) (j : Nat) : (s.setDt b).readData j = s.readData j := rfl

/-! ### setSt -/

@[simp] theorem State.setSt_v (b : Byte) : (s.setSt b).v = s.v := rfl
@[simp] theorem State.setSt_i (b : Byte) : (s.setSt b).i = s.i := rfl
@[simp] theorem State.setSt_pc (b : Byte) : (s.setSt b).pc = s.pc := rfl
@[simp] theorem State.setSt_sp (b : Byte) : (s.setSt b).sp = s.sp := rfl
@[simp] theorem State.setSt_stack (b : Byte) : (s.setSt b).stack = s.stack := rfl
@[simp] theorem State.setSt_dt (b : Byte) : (s.setSt b).dt = s.dt := rfl
@[simp] theorem State.setSt_st (b : Byte) : (s.setSt b).st = b := rfl
@[simp] theorem State.setSt_key (b : Byte) : (s.setSt b).key = s.key := rfl
@[simp] theorem State.setSt_disp (b : Byte) : (s.setSt b).disp = s.disp := rfl
@[simp] theorem State.setSt_runState (b : Byte) : (s.setSt b).runState = s.runState := rfl
@[simp] theorem State.setSt_mem (b : Byte) : (s.setSt b).mem = s.mem := rfl
@[simp] theorem State.setSt_report (b : Byte) : (s.setSt b).report = s.report := rfl
@[simp] theorem State.setSt_draws (b : Byte) : (s.setSt b).draws = s.draws := rfl
@[simp] theorem State.setSt_shl (b : Byte) : (s.setSt b).shl = s.shl := rfl
@[simp] theorem State.setSt_inbox (b : Byte) : (s.setSt b).inbox = s.inbox := rfl
@[simp] theorem State.setSt_host (b : Byte) : (s.setSt b).host = s.host := rfl
@[simp] theorem State.setSt_sent (b : Byte) : (s.setSt b).sent = s.sent := rfl
@[simp] theorem State.reg_setSt (b : Byte) (z : Reg) : (s.setSt b).reg z = s.reg z := rfl
@[simp] theorem State.slot_setSt (b : Byte) (j : Nibble) : (s.setSt b).slot j = s.slot j := rfl
@[simp] theorem State.held_setSt (b : Byte) (j : Nibble) : (s.setSt b).held j = s.held j := rfl
@[simp] theorem State.memRead_setSt (b : Byte) (a : Nat) : (s.setSt b).memRead a = s.memRead a := rfl
@[simp] theorem State.dataAddr_setSt (b : Byte) (j : Nat) : (s.setSt b).dataAddr j = s.dataAddr j := rfl
@[simp] theorem State.readData_setSt (b : Byte) (j : Nat) : (s.setSt b).readData j = s.readData j := rfl

/-! ### setKey -/

@[simp] theorem State.setKey_v (k : Nibble) (f : Bool) : (s.setKey k f).v = s.v := rfl
@[simp] theorem State.setKey_i (k : Nibble) (f : Bool) : (s.setKey k f).i = s.i := rfl
@[simp] theorem State.setKey_pc (k : Nibble) (f : Bool) : (s.setKey k f).pc = s.pc := rfl
@[simp] theorem State.setKey_sp (k : Nibble) (f : Bool) : (s.setKey k f).sp = s.sp := rfl
@[simp] theorem State.setKey_stack (k : Nibble) (f : Bool) : (s.setKey k f).stack = s.stack := rfl
@[simp] theorem State.setKey_dt (k : Nibble) (f : Bool) : (s.setKey k f).dt = s.dt := rfl
@[simp] theorem State.setKey_st (k : Nibble) (f : Bool) : (s.setKey k f).st = s.st := rfl
@[simp] theorem State.setKey_disp (k : Nibble) (f : Bool) : (s.setKey k f).disp = s.disp := rfl
@[simp] theorem State.setKey_runState (k : Nibble) (f : Bool) : (s.setKey k f).runState = s.runState := rfl
@[simp] theorem State.setKey_mem (k : Nibble) (f : Bool) : (s.setKey k f).mem = s.mem := rfl
@[simp] theorem State.setKey_report (k : Nibble) (f : Bool) : (s.setKey k f).report = s.report := rfl
@[simp] theorem State.setKey_draws (k : Nibble) (f : Bool) : (s.setKey k f).draws = s.draws := rfl
@[simp] theorem State.setKey_shl (k : Nibble) (f : Bool) : (s.setKey k f).shl = s.shl := rfl
@[simp] theorem State.setKey_inbox (k : Nibble) (f : Bool) : (s.setKey k f).inbox = s.inbox := rfl
@[simp] theorem State.setKey_host (k : Nibble) (f : Bool) : (s.setKey k f).host = s.host := rfl
@[simp] theorem State.setKey_sent (k : Nibble) (f : Bool) : (s.setKey k f).sent = s.sent := rfl
@[simp] theorem State.reg_setKey (k : Nibble) (f : Bool) (z : Reg) : (s.setKey k f).reg z = s.reg z := rfl
@[simp] theorem State.slot_setKey (k : Nibble) (f : Bool) (j : Nibble) : (s.setKey k f).slot j = s.slot j := rfl
@[simp] theorem State.memRead_setKey (k : Nibble) (f : Bool) (a : Nat) : (s.setKey k f).memRead a = s.memRead a := rfl
@[simp] theorem State.dataAddr_setKey (k : Nibble) (f : Bool) (j : Nat) : (s.setKey k f).dataAddr j = s.dataAddr j := rfl
@[simp] theorem State.readData_setKey (k : Nibble) (f : Bool) (j : Nat) : (s.setKey k f).readData j = s.readData j := rfl

/-! ### setDisp -/

@[simp] theorem State.setDisp_v (d : Display) : (s.setDisp d).v = s.v := rfl
@[simp] theorem State.setDisp_i (d : Display) : (s.setDisp d).i = s.i := rfl
@[simp] theorem State.setDisp_pc (d : Display) : (s.setDisp d).pc = s.pc := rfl
@[simp] theorem State.setDisp_sp (d : Display) : (s.setDisp d).sp = s.sp := rfl
@[simp] theorem State.setDisp_stack (d : Display) : (s.setDisp d).stack = s.stack := rfl
@[simp] theorem State.setDisp_dt (d : Display) : (s.setDisp d).dt = s.dt := rfl
@[simp] theorem State.setDisp_st (d : Display) : (s.setDisp d).st = s.st := rfl
@[simp] theorem State.setDisp_key (d : Display) : (s.setDisp d).key = s.key := rfl
@[simp] theorem State.setDisp_disp (d : Display) : (s.setDisp d).disp = d := rfl
@[simp] theorem State.setDisp_runState (d : Display) : (s.setDisp d).runState = s.runState := rfl
@[simp] theorem State.setDisp_mem (d : Display) : (s.setDisp d).mem = s.mem := rfl
@[simp] theorem State.setDisp_report (d : Display) : (s.setDisp d).report = s.report := rfl
@[simp] theorem State.setDisp_draws (d : Display) : (s.setDisp d).draws = s.draws := rfl
@[simp] theorem State.setDisp_shl (d : Display) : (s.setDisp d).shl = s.shl := rfl
@[simp] theorem State.setDisp_inbox (d : Display) : (s.setDisp d).inbox = s.inbox := rfl
@[simp] theorem State.setDisp_host (d : Display) : (s.setDisp d).host = s.host := rfl
@[simp] theorem State.setDisp_sent (d : Display) : (s.setDisp d).sent = s.sent := rfl
@[simp] theorem State.reg_setDisp (d : Display) (z : Reg) : (s.setDisp d).reg z = s.reg z := rfl
@[simp] theorem State.slot_setDisp (d : Display) (j : Nibble) : (s.setDisp d).slot j = s.slot j := rfl
@[simp] theorem State.held_setDisp (d : Display) (j : Nibble) : (s.setDisp d).held j = s.held j := rfl
@[simp] theorem State.memRead_setDisp (d : Display) (a : Nat) : (s.setDisp d).memRead a = s.memRead a := rfl
@[simp] theorem State.dataAddr_setDisp (d : Display) (j : Nat) : (s.setDisp d).dataAddr j = s.dataAddr j := rfl
@[simp] theorem State.readData_setDisp (d : Display) (j : Nat) : (s.setDisp d).readData j = s.readData j := rfl

/-! ### setRunState -/

@[simp] theorem State.setRunState_v (r : RunState) : (s.setRunState r).v = s.v := rfl
@[simp] theorem State.setRunState_i (r : RunState) : (s.setRunState r).i = s.i := rfl
@[simp] theorem State.setRunState_pc (r : RunState) : (s.setRunState r).pc = s.pc := rfl
@[simp] theorem State.setRunState_sp (r : RunState) : (s.setRunState r).sp = s.sp := rfl
@[simp] theorem State.setRunState_stack (r : RunState) : (s.setRunState r).stack = s.stack := rfl
@[simp] theorem State.setRunState_dt (r : RunState) : (s.setRunState r).dt = s.dt := rfl
@[simp] theorem State.setRunState_st (r : RunState) : (s.setRunState r).st = s.st := rfl
@[simp] theorem State.setRunState_key (r : RunState) : (s.setRunState r).key = s.key := rfl
@[simp] theorem State.setRunState_disp (r : RunState) : (s.setRunState r).disp = s.disp := rfl
@[simp] theorem State.setRunState_runState (r : RunState) : (s.setRunState r).runState = r := rfl
@[simp] theorem State.setRunState_mem (r : RunState) : (s.setRunState r).mem = s.mem := rfl
@[simp] theorem State.setRunState_report (r : RunState) : (s.setRunState r).report = s.report := rfl
@[simp] theorem State.setRunState_draws (r : RunState) : (s.setRunState r).draws = s.draws := rfl
@[simp] theorem State.setRunState_shl (r : RunState) : (s.setRunState r).shl = s.shl := rfl
@[simp] theorem State.setRunState_inbox (r : RunState) : (s.setRunState r).inbox = s.inbox := rfl
@[simp] theorem State.setRunState_host (r : RunState) : (s.setRunState r).host = s.host := rfl
@[simp] theorem State.setRunState_sent (r : RunState) : (s.setRunState r).sent = s.sent := rfl
@[simp] theorem State.reg_setRunState (r : RunState) (z : Reg) : (s.setRunState r).reg z = s.reg z := rfl
@[simp] theorem State.slot_setRunState (r : RunState) (j : Nibble) : (s.setRunState r).slot j = s.slot j := rfl
@[simp] theorem State.held_setRunState (r : RunState) (j : Nibble) : (s.setRunState r).held j = s.held j := rfl
@[simp] theorem State.memRead_setRunState (r : RunState) (a : Nat) : (s.setRunState r).memRead a = s.memRead a := rfl
@[simp] theorem State.dataAddr_setRunState (r : RunState) (j : Nat) : (s.setRunState r).dataAddr j = s.dataAddr j := rfl
@[simp] theorem State.readData_setRunState (r : RunState) (j : Nat) : (s.setRunState r).readData j = s.readData j := rfl

/-! ### setMem -/

@[simp] theorem State.setMem_v (m : Memory) : (s.setMem m).v = s.v := rfl
@[simp] theorem State.setMem_i (m : Memory) : (s.setMem m).i = s.i := rfl
@[simp] theorem State.setMem_pc (m : Memory) : (s.setMem m).pc = s.pc := rfl
@[simp] theorem State.setMem_sp (m : Memory) : (s.setMem m).sp = s.sp := rfl
@[simp] theorem State.setMem_stack (m : Memory) : (s.setMem m).stack = s.stack := rfl
@[simp] theorem State.setMem_dt (m : Memory) : (s.setMem m).dt = s.dt := rfl
@[simp] theorem State.setMem_st (m : Memory) : (s.setMem m).st = s.st := rfl
@[simp] theorem State.setMem_key (m : Memory) : (s.setMem m).key = s.key := rfl
@[simp] theorem State.setMem_disp (m : Memory) : (s.setMem m).disp = s.disp := rfl
@[simp] theorem State.setMem_runState (m : Memory) : (s.setMem m).runState = s.runState := rfl
@[simp] theorem State.setMem_mem (m : Memory) : (s.setMem m).mem = m := rfl
@[simp] theorem State.setMem_report (m : Memory) : (s.setMem m).report = s.report := rfl
@[simp] theorem State.setMem_draws (m : Memory) : (s.setMem m).draws = s.draws := rfl
@[simp] theorem State.setMem_shl (m : Memory) : (s.setMem m).shl = s.shl := rfl
@[simp] theorem State.setMem_inbox (m : Memory) : (s.setMem m).inbox = s.inbox := rfl
@[simp] theorem State.setMem_host (m : Memory) : (s.setMem m).host = s.host := rfl
@[simp] theorem State.setMem_sent (m : Memory) : (s.setMem m).sent = s.sent := rfl
@[simp] theorem State.reg_setMem (m : Memory) (z : Reg) : (s.setMem m).reg z = s.reg z := rfl
@[simp] theorem State.slot_setMem (m : Memory) (j : Nibble) : (s.setMem m).slot j = s.slot j := rfl
@[simp] theorem State.held_setMem (m : Memory) (j : Nibble) : (s.setMem m).held j = s.held j := rfl
@[simp] theorem State.dataAddr_setMem (m : Memory) (j : Nat) : (s.setMem m).dataAddr j = s.dataAddr j := rfl

/-! ### setReport -/

@[simp] theorem State.setReport_v (r : Report) : (s.setReport r).v = s.v := rfl
@[simp] theorem State.setReport_i (r : Report) : (s.setReport r).i = s.i := rfl
@[simp] theorem State.setReport_pc (r : Report) : (s.setReport r).pc = s.pc := rfl
@[simp] theorem State.setReport_sp (r : Report) : (s.setReport r).sp = s.sp := rfl
@[simp] theorem State.setReport_stack (r : Report) : (s.setReport r).stack = s.stack := rfl
@[simp] theorem State.setReport_dt (r : Report) : (s.setReport r).dt = s.dt := rfl
@[simp] theorem State.setReport_st (r : Report) : (s.setReport r).st = s.st := rfl
@[simp] theorem State.setReport_key (r : Report) : (s.setReport r).key = s.key := rfl
@[simp] theorem State.setReport_disp (r : Report) : (s.setReport r).disp = s.disp := rfl
@[simp] theorem State.setReport_runState (r : Report) : (s.setReport r).runState = s.runState := rfl
@[simp] theorem State.setReport_mem (r : Report) : (s.setReport r).mem = s.mem := rfl
@[simp] theorem State.setReport_report (r : Report) : (s.setReport r).report = r := rfl
@[simp] theorem State.setReport_draws (r : Report) : (s.setReport r).draws = s.draws := rfl
@[simp] theorem State.setReport_shl (r : Report) : (s.setReport r).shl = s.shl := rfl
@[simp] theorem State.setReport_inbox (r : Report) : (s.setReport r).inbox = s.inbox := rfl
@[simp] theorem State.setReport_host (r : Report) : (s.setReport r).host = s.host := rfl
@[simp] theorem State.setReport_sent (r : Report) : (s.setReport r).sent = s.sent := rfl
@[simp] theorem State.reg_setReport (r : Report) (z : Reg) : (s.setReport r).reg z = s.reg z := rfl
@[simp] theorem State.slot_setReport (r : Report) (j : Nibble) : (s.setReport r).slot j = s.slot j := rfl
@[simp] theorem State.held_setReport (r : Report) (j : Nibble) : (s.setReport r).held j = s.held j := rfl
@[simp] theorem State.memRead_setReport (r : Report) (a : Nat) : (s.setReport r).memRead a = s.memRead a := rfl
@[simp] theorem State.dataAddr_setReport (r : Report) (j : Nat) : (s.setReport r).dataAddr j = s.dataAddr j := rfl
@[simp] theorem State.readData_setReport (r : Report) (j : Nat) : (s.setReport r).readData j = s.readData j := rfl

/-! ### setDraws -/

@[simp] theorem State.setDraws_v (n : Nat) : (s.setDraws n).v = s.v := rfl
@[simp] theorem State.setDraws_i (n : Nat) : (s.setDraws n).i = s.i := rfl
@[simp] theorem State.setDraws_pc (n : Nat) : (s.setDraws n).pc = s.pc := rfl
@[simp] theorem State.setDraws_sp (n : Nat) : (s.setDraws n).sp = s.sp := rfl
@[simp] theorem State.setDraws_stack (n : Nat) : (s.setDraws n).stack = s.stack := rfl
@[simp] theorem State.setDraws_dt (n : Nat) : (s.setDraws n).dt = s.dt := rfl
@[simp] theorem State.setDraws_st (n : Nat) : (s.setDraws n).st = s.st := rfl
@[simp] theorem State.setDraws_key (n : Nat) : (s.setDraws n).key = s.key := rfl
@[simp] theorem State.setDraws_disp (n : Nat) : (s.setDraws n).disp = s.disp := rfl
@[simp] theorem State.setDraws_runState (n : Nat) : (s.setDraws n).runState = s.runState := rfl
@[simp] theorem State.setDraws_mem (n : Nat) : (s.setDraws n).mem = s.mem := rfl
@[simp] theorem State.setDraws_report (n : Nat) : (s.setDraws n).report = s.report := rfl
@[simp] theorem State.setDraws_draws (n : Nat) : (s.setDraws n).draws = n := rfl
@[simp] theorem State.setDraws_shl (n : Nat) : (s.setDraws n).shl = s.shl := rfl
@[simp] theorem State.setDraws_inbox (n : Nat) : (s.setDraws n).inbox = s.inbox := rfl
@[simp] theorem State.setDraws_host (n : Nat) : (s.setDraws n).host = s.host := rfl
@[simp] theorem State.setDraws_sent (n : Nat) : (s.setDraws n).sent = s.sent := rfl
@[simp] theorem State.reg_setDraws (n : Nat) (z : Reg) : (s.setDraws n).reg z = s.reg z := rfl
@[simp] theorem State.slot_setDraws (n : Nat) (j : Nibble) : (s.setDraws n).slot j = s.slot j := rfl
@[simp] theorem State.held_setDraws (n : Nat) (j : Nibble) : (s.setDraws n).held j = s.held j := rfl
@[simp] theorem State.memRead_setDraws (n : Nat) (a : Nat) : (s.setDraws n).memRead a = s.memRead a := rfl
@[simp] theorem State.dataAddr_setDraws (n : Nat) (j : Nat) : (s.setDraws n).dataAddr j = s.dataAddr j := rfl
@[simp] theorem State.readData_setDraws (n : Nat) (j : Nat) : (s.setDraws n).readData j = s.readData j := rfl

/-! ### setInbox -/

@[simp] theorem State.setInbox_v (es : List Event) : (s.setInbox es).v = s.v := rfl
@[simp] theorem State.setInbox_i (es : List Event) : (s.setInbox es).i = s.i := rfl
@[simp] theorem State.setInbox_pc (es : List Event) : (s.setInbox es).pc = s.pc := rfl
@[simp] theorem State.setInbox_sp (es : List Event) : (s.setInbox es).sp = s.sp := rfl
@[simp] theorem State.setInbox_stack (es : List Event) : (s.setInbox es).stack = s.stack := rfl
@[simp] theorem State.setInbox_dt (es : List Event) : (s.setInbox es).dt = s.dt := rfl
@[simp] theorem State.setInbox_st (es : List Event) : (s.setInbox es).st = s.st := rfl
@[simp] theorem State.setInbox_key (es : List Event) : (s.setInbox es).key = s.key := rfl
@[simp] theorem State.setInbox_disp (es : List Event) : (s.setInbox es).disp = s.disp := rfl
@[simp] theorem State.setInbox_runState (es : List Event) : (s.setInbox es).runState = s.runState := rfl
@[simp] theorem State.setInbox_mem (es : List Event) : (s.setInbox es).mem = s.mem := rfl
@[simp] theorem State.setInbox_report (es : List Event) : (s.setInbox es).report = s.report := rfl
@[simp] theorem State.setInbox_draws (es : List Event) : (s.setInbox es).draws = s.draws := rfl
@[simp] theorem State.setInbox_shl (es : List Event) : (s.setInbox es).shl = s.shl := rfl
@[simp] theorem State.setInbox_inbox (es : List Event) : (s.setInbox es).inbox = es := rfl
@[simp] theorem State.setInbox_host (es : List Event) : (s.setInbox es).host = s.host := rfl
@[simp] theorem State.setInbox_sent (es : List Event) : (s.setInbox es).sent = s.sent := rfl
@[simp] theorem State.reg_setInbox (es : List Event) (z : Reg) : (s.setInbox es).reg z = s.reg z := rfl
@[simp] theorem State.slot_setInbox (es : List Event) (j : Nibble) : (s.setInbox es).slot j = s.slot j := rfl
@[simp] theorem State.held_setInbox (es : List Event) (j : Nibble) : (s.setInbox es).held j = s.held j := rfl
@[simp] theorem State.memRead_setInbox (es : List Event) (a : Nat) : (s.setInbox es).memRead a = s.memRead a := rfl
@[simp] theorem State.dataAddr_setInbox (es : List Event) (j : Nat) : (s.setInbox es).dataAddr j = s.dataAddr j := rfl
@[simp] theorem State.readData_setInbox (es : List Event) (j : Nat) : (s.setInbox es).readData j = s.readData j := rfl

/-! ### setSent -/

@[simp] theorem State.setSent_v (n : Nat) : (s.setSent n).v = s.v := rfl
@[simp] theorem State.setSent_i (n : Nat) : (s.setSent n).i = s.i := rfl
@[simp] theorem State.setSent_pc (n : Nat) : (s.setSent n).pc = s.pc := rfl
@[simp] theorem State.setSent_sp (n : Nat) : (s.setSent n).sp = s.sp := rfl
@[simp] theorem State.setSent_stack (n : Nat) : (s.setSent n).stack = s.stack := rfl
@[simp] theorem State.setSent_dt (n : Nat) : (s.setSent n).dt = s.dt := rfl
@[simp] theorem State.setSent_st (n : Nat) : (s.setSent n).st = s.st := rfl
@[simp] theorem State.setSent_key (n : Nat) : (s.setSent n).key = s.key := rfl
@[simp] theorem State.setSent_disp (n : Nat) : (s.setSent n).disp = s.disp := rfl
@[simp] theorem State.setSent_runState (n : Nat) : (s.setSent n).runState = s.runState := rfl
@[simp] theorem State.setSent_mem (n : Nat) : (s.setSent n).mem = s.mem := rfl
@[simp] theorem State.setSent_report (n : Nat) : (s.setSent n).report = s.report := rfl
@[simp] theorem State.setSent_draws (n : Nat) : (s.setSent n).draws = s.draws := rfl
@[simp] theorem State.setSent_shl (n : Nat) : (s.setSent n).shl = s.shl := rfl
@[simp] theorem State.setSent_inbox (n : Nat) : (s.setSent n).inbox = s.inbox := rfl
@[simp] theorem State.setSent_host (n : Nat) : (s.setSent n).host = s.host := rfl
@[simp] theorem State.setSent_sent (n : Nat) : (s.setSent n).sent = n := rfl
@[simp] theorem State.reg_setSent (n : Nat) (z : Reg) : (s.setSent n).reg z = s.reg z := rfl
@[simp] theorem State.slot_setSent (n : Nat) (j : Nibble) : (s.setSent n).slot j = s.slot j := rfl
@[simp] theorem State.held_setSent (n : Nat) (j : Nibble) : (s.setSent n).held j = s.held j := rfl
@[simp] theorem State.memRead_setSent (n : Nat) (a : Nat) : (s.setSent n).memRead a = s.memRead a := rfl
@[simp] theorem State.dataAddr_setSent (n : Nat) (j : Nat) : (s.setSent n).dataAddr j = s.dataAddr j := rfl
@[simp] theorem State.readData_setSent (n : Nat) (j : Nat) : (s.setSent n).readData j = s.readData j := rfl

/-! ### An update read back through its accessor -/

theorem State.reg_setReg (x : Reg) (b : Byte) (z : Reg) :
    (s.setReg x b).reg z = if z = x then b else s.reg z := by
  simp only [State.reg, State.setReg, Vector.getElem_set, BitVec.toNat_inj, eq_comm]

@[simp] theorem State.reg_setReg_self (x : Reg) (b : Byte) : (s.setReg x b).reg x = b := by
  simp [State.reg_setReg]

theorem State.slot_setSlot (k : Nibble) (w : Word) (j : Nibble) :
    (s.setSlot k w).slot j = if j = k then w else s.slot j := by
  simp only [State.slot, State.setSlot, Vector.getElem_set, BitVec.toNat_inj, eq_comm]

@[simp] theorem State.slot_setSlot_self (k : Nibble) (w : Word) : (s.setSlot k w).slot k = w := by
  simp [State.slot_setSlot]

theorem State.held_setKey (k : Nibble) (f : Bool) (j : Nibble) :
    (s.setKey k f).held j = if j = k then f else s.held j := by
  simp only [State.held, State.setKey, Vector.getElem_set, BitVec.toNat_inj, eq_comm]

@[simp] theorem State.held_setKey_self (k : Nibble) (f : Bool) : (s.setKey k f).held k = f := by
  simp [State.held_setKey]

end Sys2Proof.Machine
end

