-- ==== Sys2Proof/Laws/Memory.lean ====
section
/-! SUPPORT. The memory array: a read after a write, and that every operation keeps the canonical form. -/

namespace Sys2Proof.Machine

/-! ### Read after write -/

theorem Memory.get_filter_ne (m : Memory) (a a' : Nat) (h : a' ≠ a) :
    Memory.get (m.filter fun c => c.1 != a) a' = m.get a' := by
  induction m with
  | nil => rfl
  | cons c m ih =>
    obtain ⟨k, b⟩ := c
    by_cases hk : k = a
    · subst hk; simp [Memory.get, ih, h]
    · simp [hk, Memory.get, ih]

theorem Memory.get_filter_self (m : Memory) (a : Nat) :
    Memory.get (m.filter fun c => c.1 != a) a = Memory.unlisted a := by
  induction m with
  | nil => rfl
  | cons c m ih =>
    obtain ⟨k, b⟩ := c
    by_cases hk : k = a
    · subst hk; simpa using ih
    · simpa [hk, Memory.get, Ne.symm hk] using ih

theorem Memory.get_insertCell (a : Nat) (b : Byte) (m : Memory) (a' : Nat)
    (h : ∀ c ∈ m, c.1 ≠ a) :
    (Memory.insertCell a b m).get a' = if a' = a then b else m.get a' := by
  induction m with
  | nil => rfl
  | cons c m ih =>
    obtain ⟨k, v⟩ := c
    have hk : k ≠ a := h (k, v) (by simp)
    have ih := ih fun c hc => h c (by simp [hc])
    by_cases hlt : a < k
    · simp [Memory.insertCell, hlt, Memory.get]
    · by_cases hak : a' = k
      · subst hak; simp [Memory.insertCell, hlt, Memory.get, hk]
      · simp [Memory.insertCell, hlt, Memory.get, hak, ih]

/-- A byte read after a write. -/
theorem Memory.get_put (m : Memory) (a : Nat) (b : Byte) (a' : Nat) :
    (m.put a b).get a' = if a' = a then b else m.get a' := by
  unfold Memory.put
  split_ifs with hb ha ha
  · subst ha; rw [Memory.get_filter_self, hb]
  · exact Memory.get_filter_ne m a a' ha
  · rw [Memory.get_insertCell _ _ _ _ (by simp), if_pos ha]
  · rw [Memory.get_insertCell _ _ _ _ (by simp), if_neg ha, Memory.get_filter_ne m a a' ha]

theorem Memory.get_putList (m : Memory) (a : Nat) (bs : List Byte) (a' : Nat) :
    (m.putList a bs).get a' = if a ≤ a' ∧ a' < a + bs.length then bs.getD (a' - a) 0 else m.get a' := by
  induction bs generalizing m a with
  | nil => rw [if_neg (by simp only [List.length_nil]; omega)]; rfl
  | cons b bs ih =>
    rw [Memory.putList, ih, Memory.get_put]
    rcases Nat.lt_trichotomy a' a with h | h | h
    · rw [if_neg (by omega), if_neg (by omega), if_neg (by omega)]
    · subst h; rw [if_neg (by omega), if_pos rfl, if_pos (by simp)]; simp
    · have hne : a' ≠ a := by omega
      obtain ⟨d, hd⟩ : ∃ d, a' - a = d + 1 := ⟨a' - a - 1, by omega⟩
      have hd' : a' - (a + 1) = d := by omega
      rw [if_neg hne, hd, hd', List.getD_cons_succ]
      by_cases hin : a' < a + 1 + bs.length
      · rw [if_pos ⟨by omega, hin⟩, if_pos ⟨by omega, by simp only [List.length_cons]; omega⟩]
      · rw [if_neg (by omega), if_neg (by simp only [List.length_cons]; omega)]

/-! ### The canonical form -/

theorem Memory.wfFrom_mono {lo lo' : Nat} (h : lo' ≤ lo) {m : Memory} (hm : Memory.wfFrom lo m = true) :
    Memory.wfFrom lo' m = true := by
  cases m with
  | nil => rfl
  | cons c m =>
    obtain ⟨k, b⟩ := c
    simp only [Memory.wfFrom, Bool.and_eq_true, decide_eq_true_eq] at hm ⊢
    exact ⟨⟨⟨h.trans hm.1.1.1, hm.1.1.2⟩, hm.1.2⟩, hm.2⟩

theorem Memory.wfFrom_filter (a lo : Nat) (m : Memory) (h : Memory.wfFrom lo m = true) :
    Memory.wfFrom lo (m.filter fun c => c.1 != a) = true := by
  induction m generalizing lo with
  | nil => rfl
  | cons c m ih =>
    obtain ⟨k, b⟩ := c
    simp only [Memory.wfFrom, Bool.and_eq_true, decide_eq_true_eq] at h
    by_cases hk : k = a
    · simpa [hk] using Memory.wfFrom_mono (by omega) (ih _ h.2)
    · rw [List.filter_cons_of_pos (by simpa using hk)]
      simp only [Memory.wfFrom, Bool.and_eq_true, decide_eq_true_eq]
      exact ⟨h.1, ih _ h.2⟩

theorem Memory.wfFrom_insertCell (a : Nat) (b : Byte) (ha : a < Config.memSize) (hb : b ≠ Memory.unlisted a)
    (lo : Nat) (hlo : lo ≤ a) (m : Memory) (hne : ∀ c ∈ m, c.1 ≠ a) (h : Memory.wfFrom lo m = true) :
    Memory.wfFrom lo (Memory.insertCell a b m) = true := by
  induction m generalizing lo with
  | nil => simp [Memory.insertCell, Memory.wfFrom, hlo, ha, hb]
  | cons c m ih =>
    obtain ⟨k, v⟩ := c
    have hk : k ≠ a := hne (k, v) (by simp)
    simp only [Memory.wfFrom, Bool.and_eq_true, decide_eq_true_eq] at h
    by_cases hlt : a < k
    · simp only [Memory.insertCell, hlt, if_true, Memory.wfFrom, Bool.and_eq_true, decide_eq_true_eq,
        bne_iff_ne, ne_eq]
      exact ⟨⟨⟨hlo, ha⟩, hb⟩, ⟨⟨hlt, h.1.1.2⟩, by simpa using h.1.2⟩, h.2⟩
    · simp only [Memory.insertCell, hlt, if_false, Memory.wfFrom, Bool.and_eq_true, decide_eq_true_eq]
      exact ⟨h.1, ih _ (by omega) (fun c hc => hne c (by simp [hc])) h.2⟩

/-- A write keeps the canonical form. -/
theorem Memory.wf_put (m : Memory) (a : Nat) (b : Byte) (ha : a < Config.memSize) (h : m.wf = true) :
    (m.put a b).wf = true := by
  unfold Memory.put Memory.wf
  split_ifs with hb
  · exact Memory.wfFrom_filter a 0 m h
  · exact Memory.wfFrom_insertCell a b ha hb 0 (Nat.zero_le _) _ (by simp) (Memory.wfFrom_filter a 0 m h)

/-- Writing a list below the end of memory keeps the canonical form. -/
theorem Memory.wf_putList (m : Memory) (a : Nat) (bs : List Byte) (ha : a + bs.length ≤ Config.memSize)
    (h : m.wf = true) : (m.putList a bs).wf = true := by
  induction bs generalizing m a with
  | nil => exact h
  | cons b bs ih =>
    simp only [List.length_cons] at ha
    exact ih _ _ (by omega) (Memory.wf_put m a b (by omega) h)

theorem State.memWrite_wf (s : State) (addr : Nat) (b : Byte) (h : s.mem.wf = true) :
    (s.memWrite addr b).mem.wf = true :=
  Memory.wf_put _ _ _ (Nat.mod_lt _ (by decide)) h

theorem State.reset_mem_wf : State.reset.mem.wf = true := rfl

/-- `MemRead` after `MemWrite` (spec/20_memory.md R54, R58). -/
theorem State.memRead_memWrite (s : State) (addr : Nat) (b : Byte) (a : Nat) :
    (s.memWrite addr b).memRead a =
      if a % Config.memSize = addr % Config.memSize then b else s.memRead a := by
  simp only [State.memRead, State.memWrite, State.setMem_mem, Memory.get_put]

end Sys2Proof.Machine
end

