-- ==== Sys2Proof/Laws/Ops.lean ====
section
/-! SUPPORT. What each shared operation does, once: the compound updates as chains of field updates, and the register and
memory blocks. -/

namespace Sys2Proof.Machine

/-! ### Compound updates are chains of field updates -/

@[simp] theorem State.setFlag_eq (s : State) (f : Bool) : s.setFlag f = s.setReg Config.flagReg (flagByte f) := rfl

@[simp] theorem State.raise_eq (s : State) (f : Report) : s.raise f = (s.setReport f).setRunState .paused := rfl

@[simp] theorem State.consumeDraw_eq (s : State) : s.consumeDraw = s.setDraws (s.draws + 1) := rfl

@[simp] theorem State.push_eq (s : State) :
    s.push = (s.setSlot (slotNumber s.sp) s.pc).setSp (s.sp + 1) := rfl

@[simp] theorem State.pop_eq (s : State) :
    s.pop = (s.setSp (s.sp - 1)).setPc (s.slot (slotNumber (s.sp - 1))) := rfl

/-- A skip only sets `PC`, to itself where the condition does not hold. -/
theorem State.skipIf_eq (s : State) (c : Bool) : s.skipIf c = s.setPc (if c then s.pc + 2 else s.pc) := by
  cases c <;> rfl

theorem State.beforeExecute_eq (s : State) :
    s.beforeExecute =
      ((((s.setReport .none).setDt (countDown s.dt)).setSt (countDown s.st)).setPc (s.pc + 2)) := rfl

/-- A timer counts down by one and stops at 0 (spec/60_exceptions.md R172). -/
theorem countDown_toNat (t : Byte) : (countDown t).toNat = t.toNat - 1 := by
  unfold countDown
  split_ifs with h
  · subst h; rfl
  · have : t.toNat ≠ 0 := fun hz => h (BitVec.eq_of_toNat_eq hz)
    have ht := t.isLt
    rw [BitVec.toNat_sub, show (1 : Byte).toNat = 1 from rfl]
    omega

theorem flagByte_zero_or_one (f : Bool) : flagByte f = 0 ∨ flagByte f = 1 := by cases f <;> simp [flagByte]

/-! ### Memory writes keep every other field -/

@[simp] theorem State.memWrite_v (s : State) (a : Nat) (b : Byte) : (s.memWrite a b).v = s.v := rfl
@[simp] theorem State.memWrite_i (s : State) (a : Nat) (b : Byte) : (s.memWrite a b).i = s.i := rfl
@[simp] theorem State.memWrite_pc (s : State) (a : Nat) (b : Byte) : (s.memWrite a b).pc = s.pc := rfl
@[simp] theorem State.memWrite_sp (s : State) (a : Nat) (b : Byte) : (s.memWrite a b).sp = s.sp := rfl
@[simp] theorem State.memWrite_stack (s : State) (a : Nat) (b : Byte) : (s.memWrite a b).stack = s.stack := rfl
@[simp] theorem State.memWrite_dt (s : State) (a : Nat) (b : Byte) : (s.memWrite a b).dt = s.dt := rfl
@[simp] theorem State.memWrite_st (s : State) (a : Nat) (b : Byte) : (s.memWrite a b).st = s.st := rfl
@[simp] theorem State.memWrite_key (s : State) (a : Nat) (b : Byte) : (s.memWrite a b).key = s.key := rfl
@[simp] theorem State.memWrite_disp (s : State) (a : Nat) (b : Byte) : (s.memWrite a b).disp = s.disp := rfl
@[simp] theorem State.memWrite_runState (s : State) (a : Nat) (b : Byte) : (s.memWrite a b).runState = s.runState := rfl
@[simp] theorem State.memWrite_report (s : State) (a : Nat) (b : Byte) : (s.memWrite a b).report = s.report := rfl
@[simp] theorem State.memWrite_draws (s : State) (a : Nat) (b : Byte) : (s.memWrite a b).draws = s.draws := rfl
@[simp] theorem State.memWrite_shl (s : State) (a : Nat) (b : Byte) : (s.memWrite a b).shl = s.shl := rfl
@[simp] theorem State.memWrite_inbox (s : State) (a : Nat) (b : Byte) : (s.memWrite a b).inbox = s.inbox := rfl
@[simp] theorem State.memWrite_host (s : State) (a : Nat) (b : Byte) : (s.memWrite a b).host = s.host := rfl
@[simp] theorem State.memWrite_sent (s : State) (a : Nat) (b : Byte) : (s.memWrite a b).sent = s.sent := rfl
@[simp] theorem State.reg_memWrite (s : State) (a : Nat) (b : Byte) (z : Reg) : (s.memWrite a b).reg z = s.reg z := rfl
@[simp] theorem State.slot_memWrite (s : State) (a : Nat) (b : Byte) (j : Nibble) : (s.memWrite a b).slot j = s.slot j := rfl
@[simp] theorem State.held_memWrite (s : State) (a : Nat) (b : Byte) (j : Nibble) : (s.memWrite a b).held j = s.held j := rfl
@[simp] theorem State.dataAddr_memWrite (s : State) (a : Nat) (b : Byte) (j : Nat) : (s.memWrite a b).dataAddr j = s.dataAddr j := rfl

/-- A data store changes nothing but memory. -/
theorem State.writeData_eq (s : State) (k : Nat) (bs : List Byte) :
    s.writeData k bs = s.setMem (s.writeData k bs).mem := by
  induction bs generalizing s k with
  | nil => rfl
  | cons b bs ih => rw [State.writeData, ih]; rfl

@[simp] theorem State.writeData_v (s : State) (k : Nat) (bs : List Byte) : (s.writeData k bs).v = s.v := by
  rw [State.writeData_eq]; rfl
@[simp] theorem State.writeData_i (s : State) (k : Nat) (bs : List Byte) : (s.writeData k bs).i = s.i := by
  rw [State.writeData_eq]; rfl
@[simp] theorem State.writeData_pc (s : State) (k : Nat) (bs : List Byte) : (s.writeData k bs).pc = s.pc := by
  rw [State.writeData_eq]; rfl
@[simp] theorem State.writeData_sp (s : State) (k : Nat) (bs : List Byte) : (s.writeData k bs).sp = s.sp := by
  rw [State.writeData_eq]; rfl
@[simp] theorem State.writeData_stack (s : State) (k : Nat) (bs : List Byte) : (s.writeData k bs).stack = s.stack := by
  rw [State.writeData_eq]; rfl
@[simp] theorem State.writeData_dt (s : State) (k : Nat) (bs : List Byte) : (s.writeData k bs).dt = s.dt := by
  rw [State.writeData_eq]; rfl
@[simp] theorem State.writeData_st (s : State) (k : Nat) (bs : List Byte) : (s.writeData k bs).st = s.st := by
  rw [State.writeData_eq]; rfl
@[simp] theorem State.writeData_key (s : State) (k : Nat) (bs : List Byte) : (s.writeData k bs).key = s.key := by
  rw [State.writeData_eq]; rfl
@[simp] theorem State.writeData_disp (s : State) (k : Nat) (bs : List Byte) : (s.writeData k bs).disp = s.disp := by
  rw [State.writeData_eq]; rfl
@[simp] theorem State.writeData_runState (s : State) (k : Nat) (bs : List Byte) : (s.writeData k bs).runState = s.runState := by
  rw [State.writeData_eq]; rfl
@[simp] theorem State.writeData_report (s : State) (k : Nat) (bs : List Byte) : (s.writeData k bs).report = s.report := by
  rw [State.writeData_eq]; rfl
@[simp] theorem State.writeData_draws (s : State) (k : Nat) (bs : List Byte) : (s.writeData k bs).draws = s.draws := by
  rw [State.writeData_eq]; rfl
@[simp] theorem State.writeData_shl (s : State) (k : Nat) (bs : List Byte) : (s.writeData k bs).shl = s.shl := by
  rw [State.writeData_eq]; rfl
@[simp] theorem State.writeData_inbox (s : State) (k : Nat) (bs : List Byte) : (s.writeData k bs).inbox = s.inbox := by
  rw [State.writeData_eq]; rfl
@[simp] theorem State.writeData_host (s : State) (k : Nat) (bs : List Byte) : (s.writeData k bs).host = s.host := by
  rw [State.writeData_eq]; rfl
@[simp] theorem State.writeData_sent (s : State) (k : Nat) (bs : List Byte) : (s.writeData k bs).sent = s.sent := by
  rw [State.writeData_eq]; rfl
@[simp] theorem State.reg_writeData (s : State) (k : Nat) (bs : List Byte) (z : Reg) :
    (s.writeData k bs).reg z = s.reg z := by
  rw [State.writeData_eq]; rfl
@[simp] theorem State.slot_writeData (s : State) (k : Nat) (bs : List Byte) (j : Nibble) :
    (s.writeData k bs).slot j = s.slot j := by
  rw [State.writeData_eq]; rfl
@[simp] theorem State.held_writeData (s : State) (k : Nat) (bs : List Byte) (j : Nibble) :
    (s.writeData k bs).held j = s.held j := by
  rw [State.writeData_eq]; rfl
@[simp] theorem State.dataAddr_writeData (s : State) (k : Nat) (bs : List Byte) (j : Nat) :
    (s.writeData k bs).dataAddr j = s.dataAddr j := by
  rw [State.writeData_eq]; rfl

/-- A data store keeps the canonical form of memory. -/
theorem State.writeData_wf (s : State) (k : Nat) (bs : List Byte) (h : s.mem.wf = true) :
    (s.writeData k bs).mem.wf = true := by
  induction bs generalizing s k with
  | nil => exact h
  | cons b bs ih => exact ih _ _ (State.memWrite_wf _ _ _ h)

/-- A data store leaves every byte outside its addresses (spec/20_memory.md R52, R57). -/
theorem State.memRead_writeData_of_ne (s : State) (k : Nat) (bs : List Byte) (a : Nat)
    (h : ∀ j, j < bs.length → a % Config.memSize ≠ s.dataAddr (k + j)) :
    (s.writeData k bs).memRead a = s.memRead a := by
  induction bs generalizing s k with
  | nil => rfl
  | cons b bs ih =>
    have h0 : a % Config.memSize ≠ s.dataAddr k := h 0 (by simp)
    have hmod : s.dataAddr k % Config.memSize = s.dataAddr k := Nat.mod_mod _ _
    rw [State.writeData, ih, State.memRead_memWrite, hmod, if_neg h0]
    intro j hj
    have := h (j + 1) (by simpa using hj)
    rwa [State.dataAddr_memWrite, show k + 1 + j = k + (j + 1) by omega]

/-- A data store of at most 4096 bytes reads back byte by byte. -/
theorem State.memRead_writeData (s : State) (k : Nat) (bs : List Byte) (hlen : bs.length ≤ 4096) (j : Nat)
    (hj : j < bs.length) : (s.writeData k bs).memRead (s.dataAddr (k + j)) = bs[j] := by
  induction bs generalizing s k j with
  | nil => simp at hj
  | cons b bs ih =>
    simp only [List.length_cons] at hlen hj
    rw [State.writeData]
    cases j with
    | zero =>
      rw [State.memRead_writeData_of_ne, State.memRead_memWrite, if_pos (by simp)]
      · rfl
      · intro j' hj'
        simp only [State.dataAddr, State.memWrite_i, Config.memSize]
        omega
    | succ j =>
      have := ih (s.memWrite (s.dataAddr k) b) (k + 1) (by omega) j (by omega)
      rw [State.dataAddr_memWrite, show k + 1 + j = k + (j + 1) by omega] at this
      simpa using this

/-! ### Register blocks -/

/-- A block load changes nothing but registers. -/
theorem State.setRegBlock_eq (s : State) (k : Nat) (bs : List Byte) :
    s.setRegBlock k bs = { s with v := (s.setRegBlock k bs).v } := by
  induction bs generalizing s k with
  | nil => rfl
  | cons b bs ih => rw [State.setRegBlock, ih]; rfl

@[simp] theorem State.setRegBlock_i (s : State) (k : Nat) (bs : List Byte) : (s.setRegBlock k bs).i = s.i := by
  rw [State.setRegBlock_eq]
@[simp] theorem State.setRegBlock_pc (s : State) (k : Nat) (bs : List Byte) : (s.setRegBlock k bs).pc = s.pc := by
  rw [State.setRegBlock_eq]
@[simp] theorem State.setRegBlock_sp (s : State) (k : Nat) (bs : List Byte) : (s.setRegBlock k bs).sp = s.sp := by
  rw [State.setRegBlock_eq]
@[simp] theorem State.setRegBlock_stack (s : State) (k : Nat) (bs : List Byte) : (s.setRegBlock k bs).stack = s.stack := by
  rw [State.setRegBlock_eq]
@[simp] theorem State.setRegBlock_dt (s : State) (k : Nat) (bs : List Byte) : (s.setRegBlock k bs).dt = s.dt := by
  rw [State.setRegBlock_eq]
@[simp] theorem State.setRegBlock_st (s : State) (k : Nat) (bs : List Byte) : (s.setRegBlock k bs).st = s.st := by
  rw [State.setRegBlock_eq]
@[simp] theorem State.setRegBlock_key (s : State) (k : Nat) (bs : List Byte) : (s.setRegBlock k bs).key = s.key := by
  rw [State.setRegBlock_eq]
@[simp] theorem State.setRegBlock_disp (s : State) (k : Nat) (bs : List Byte) : (s.setRegBlock k bs).disp = s.disp := by
  rw [State.setRegBlock_eq]
@[simp] theorem State.setRegBlock_runState (s : State) (k : Nat) (bs : List Byte) : (s.setRegBlock k bs).runState = s.runState := by
  rw [State.setRegBlock_eq]
@[simp] theorem State.setRegBlock_mem (s : State) (k : Nat) (bs : List Byte) : (s.setRegBlock k bs).mem = s.mem := by
  rw [State.setRegBlock_eq]
@[simp] theorem State.setRegBlock_report (s : State) (k : Nat) (bs : List Byte) : (s.setRegBlock k bs).report = s.report := by
  rw [State.setRegBlock_eq]
@[simp] theorem State.setRegBlock_draws (s : State) (k : Nat) (bs : List Byte) : (s.setRegBlock k bs).draws = s.draws := by
  rw [State.setRegBlock_eq]
@[simp] theorem State.setRegBlock_shl (s : State) (k : Nat) (bs : List Byte) : (s.setRegBlock k bs).shl = s.shl := by
  rw [State.setRegBlock_eq]
@[simp] theorem State.setRegBlock_inbox (s : State) (k : Nat) (bs : List Byte) : (s.setRegBlock k bs).inbox = s.inbox := by
  rw [State.setRegBlock_eq]
@[simp] theorem State.setRegBlock_host (s : State) (k : Nat) (bs : List Byte) : (s.setRegBlock k bs).host = s.host := by
  rw [State.setRegBlock_eq]
@[simp] theorem State.setRegBlock_sent (s : State) (k : Nat) (bs : List Byte) : (s.setRegBlock k bs).sent = s.sent := by
  rw [State.setRegBlock_eq]
@[simp] theorem State.slot_setRegBlock (s : State) (k : Nat) (bs : List Byte) (j : Nibble) :
    (s.setRegBlock k bs).slot j = s.slot j := by
  rw [State.setRegBlock_eq]; rfl
@[simp] theorem State.held_setRegBlock (s : State) (k : Nat) (bs : List Byte) (j : Nibble) :
    (s.setRegBlock k bs).held j = s.held j := by
  rw [State.setRegBlock_eq]; rfl
@[simp] theorem State.memRead_setRegBlock (s : State) (k : Nat) (bs : List Byte) (j : Nat) :
    (s.setRegBlock k bs).memRead j = s.memRead j := by
  rw [State.setRegBlock_eq]; rfl

/-- A register after a block load: the block's byte, or what it held. -/
theorem State.reg_setRegBlock (s : State) (k : Nat) (bs : List Byte) (hlen : k + bs.length ≤ 16) (z : Reg) :
    (s.setRegBlock k bs).reg z =
      if k ≤ z.toNat ∧ z.toNat < k + bs.length then bs.getD (z.toNat - k) 0 else s.reg z := by
  induction bs generalizing s k with
  | nil => rw [if_neg (by simp only [List.length_nil]; omega)]; rfl
  | cons b bs ih =>
    simp only [List.length_cons] at hlen
    have hz := z.isLt
    have hk : (BitVec.ofNat 4 k).toNat = k := by simp only [BitVec.toNat_ofNat]; omega
    have hiff : z = BitVec.ofNat 4 k ↔ z.toNat = k := by rw [← BitVec.toNat_inj, hk]
    rw [State.setRegBlock, ih _ _ (by omega), State.reg_setReg]
    simp only [hiff, List.length_cons]
    rcases Nat.lt_trichotomy z.toNat k with h | h | h
    · rw [if_neg (by omega), if_neg (by omega), if_neg (by omega)]
    · rw [if_neg (by omega), if_pos h, if_pos (by omega), h, Nat.sub_self, List.getD_cons_zero]
    · obtain ⟨d, hd⟩ : ∃ d, z.toNat - k = d + 1 := ⟨z.toNat - k - 1, by omega⟩
      have hd' : z.toNat - (k + 1) = d := by omega
      rw [hd, hd', List.getD_cons_succ]
      by_cases hin : z.toNat < k + 1 + bs.length
      · rw [if_pos ⟨by omega, hin⟩, if_pos ⟨by omega, by omega⟩]
      · rw [if_neg (by omega), if_neg (by omega), if_neg (by omega)]

@[simp] theorem State.length_readData (s : State) (n : Nat) : (s.readData n).length = n := by simp [State.readData]

theorem State.getElem?_readData (s : State) (n k : Nat) (h : k < n) :
    (s.readData n)[k]? = some (s.memRead (s.dataAddr k)) := by simp [State.readData, h]

@[simp] theorem State.length_regBlock (s : State) (x : Reg) : (s.regBlock x).length = blockLength x := by
  simp [State.regBlock]

theorem State.getElem?_regBlock (s : State) (x : Reg) (k : Nat) (h : k < blockLength x) :
    (s.regBlock x)[k]? = some (s.reg (BitVec.ofNat 4 k)) := by simp [State.regBlock, h]

theorem blockLength_le (x : Reg) : blockLength x ≤ 16 := x.isLt

end Sys2Proof.Machine
end

