-- ==== Sys2Proof/Laws/Exec.lean ====
section
/-! SUPPORT. The branching meanings case by case, a TICK and a step case by case, and the host's schedule. -/

namespace Sys2Proof.Machine

/-! ### RET and CALL (spec/40_fam0_2_control.md R91, R94) -/

theorem execRet_of_empty (s : State) (h : s.sp = 0) : execRet s = .next (s.raise .stackUnderflow) := by
  rw [execRet, if_pos h]

theorem execRet_of_live (s : State) (h : s.sp ≠ 0) (h' : s.sp ≤ Config.stackDepth) : execRet s = .next s.pop := by
  rw [execRet, if_neg h, if_neg (BitVec.not_lt.2 h')]

theorem execCall_of_full (s : State) (nnn : Addr12) (h : s.sp = Config.stackDepth) :
    execCall nnn s = .next (s.raise .stackOverflow) := by
  rw [execCall, if_pos h]

theorem execCall_of_room (s : State) (nnn : Addr12) (h : s.sp ≠ Config.stackDepth) (h' : s.sp ≤ Config.stackDepth) :
    execCall nnn s = .next (s.push.setPc (addrImm nnn)) := by
  rw [execCall, if_neg h, if_neg (BitVec.not_lt.2 h')]

/-- Whatever RET answers as a next state, it is a fault entry or a pop. -/
theorem execRet_cases (s t : State) (h : execRet s = .next t) :
    (s.sp = 0 ∧ t = s.raise .stackUnderflow) ∨ (s.sp ≠ 0 ∧ s.sp ≤ Config.stackDepth ∧ t = s.pop) := by
  unfold execRet at h
  split_ifs at h with h0 h1 <;> injection h with h
  · exact Or.inl ⟨h0, h.symm⟩
  · exact Or.inr ⟨h0, BitVec.not_lt.1 h1, h.symm⟩

/-- Whatever CALL answers as a next state, it is a fault entry or a push and a jump. -/
theorem execCall_cases (s t : State) (nnn : Addr12) (h : execCall nnn s = .next t) :
    (s.sp = Config.stackDepth ∧ t = s.raise .stackOverflow) ∨
      (s.sp ≠ Config.stackDepth ∧ s.sp ≤ Config.stackDepth ∧ t = s.push.setPc (addrImm nnn)) := by
  unfold execCall at h
  split_ifs at h with h0 h1 <;> injection h with h
  · exact Or.inl ⟨h0, h.symm⟩
  · exact Or.inr ⟨h0, BitVec.not_lt.1 h1, h.symm⟩

/-! ### TICK and step (spec/60_exceptions.md R171) -/

theorem tick_of_running (s : State) (h : s.runState = .running) :
    tick s = exec (decodeWord s.fetchWord) s.beforeExecute := by
  rw [tick, h]

theorem tick_of_not_running (s : State) (h : s.runState ≠ .running) : tick s = .next (s.setReport .none) := by
  unfold tick
  split
  · exact absurd ‹_› h
  · rfl
  · rfl

theorem step_of_tick (s : State) (h : s.nextEvent = .tick) : step s = tick s.takeEvent := by
  rw [step, h]
  rfl

/-! ### What each field and accessor reads after the two operations around exec, true by rfl -/

@[simp] theorem State.takeEvent_v (s : State) : s.takeEvent.v = s.v := rfl
@[simp] theorem State.takeEvent_i (s : State) : s.takeEvent.i = s.i := rfl
@[simp] theorem State.takeEvent_pc (s : State) : s.takeEvent.pc = s.pc := rfl
@[simp] theorem State.takeEvent_sp (s : State) : s.takeEvent.sp = s.sp := rfl
@[simp] theorem State.takeEvent_stack (s : State) : s.takeEvent.stack = s.stack := rfl
@[simp] theorem State.takeEvent_dt (s : State) : s.takeEvent.dt = s.dt := rfl
@[simp] theorem State.takeEvent_st (s : State) : s.takeEvent.st = s.st := rfl
@[simp] theorem State.takeEvent_key (s : State) : s.takeEvent.key = s.key := rfl
@[simp] theorem State.takeEvent_disp (s : State) : s.takeEvent.disp = s.disp := rfl
@[simp] theorem State.takeEvent_runState (s : State) : s.takeEvent.runState = s.runState := rfl
@[simp] theorem State.takeEvent_mem (s : State) : s.takeEvent.mem = s.mem := rfl
@[simp] theorem State.takeEvent_report (s : State) : s.takeEvent.report = s.report := rfl
@[simp] theorem State.takeEvent_draws (s : State) : s.takeEvent.draws = s.draws := rfl
@[simp] theorem State.takeEvent_shl (s : State) : s.takeEvent.shl = s.shl := rfl
@[simp] theorem State.takeEvent_inbox (s : State) : s.takeEvent.inbox = s.inbox.tail := rfl
@[simp] theorem State.takeEvent_host (s : State) : s.takeEvent.host = s.host := rfl
@[simp] theorem State.takeEvent_sent (s : State) : s.takeEvent.sent = s.sent + 1 := rfl
@[simp] theorem State.reg_takeEvent (s : State) (z : Reg) : s.takeEvent.reg z = s.reg z := rfl
@[simp] theorem State.slot_takeEvent (s : State) (j : Nibble) : s.takeEvent.slot j = s.slot j := rfl
@[simp] theorem State.held_takeEvent (s : State) (j : Nibble) : s.takeEvent.held j = s.held j := rfl
@[simp] theorem State.memRead_takeEvent (s : State) (a : Nat) : s.takeEvent.memRead a = s.memRead a := rfl
@[simp] theorem State.dataAddr_takeEvent (s : State) (j : Nat) : s.takeEvent.dataAddr j = s.dataAddr j := rfl
@[simp] theorem State.readData_takeEvent (s : State) (j : Nat) : s.takeEvent.readData j = s.readData j := rfl
@[simp] theorem State.fetchWord_takeEvent (s : State) : s.takeEvent.fetchWord = s.fetchWord := rfl

@[simp] theorem State.beforeExecute_v (s : State) : s.beforeExecute.v = s.v := rfl
@[simp] theorem State.beforeExecute_i (s : State) : s.beforeExecute.i = s.i := rfl
@[simp] theorem State.beforeExecute_pc (s : State) : s.beforeExecute.pc = s.pc + 2 := rfl
@[simp] theorem State.beforeExecute_sp (s : State) : s.beforeExecute.sp = s.sp := rfl
@[simp] theorem State.beforeExecute_stack (s : State) : s.beforeExecute.stack = s.stack := rfl
@[simp] theorem State.beforeExecute_dt (s : State) : s.beforeExecute.dt = countDown s.dt := rfl
@[simp] theorem State.beforeExecute_st (s : State) : s.beforeExecute.st = countDown s.st := rfl
@[simp] theorem State.beforeExecute_key (s : State) : s.beforeExecute.key = s.key := rfl
@[simp] theorem State.beforeExecute_disp (s : State) : s.beforeExecute.disp = s.disp := rfl
@[simp] theorem State.beforeExecute_runState (s : State) : s.beforeExecute.runState = s.runState := rfl
@[simp] theorem State.beforeExecute_mem (s : State) : s.beforeExecute.mem = s.mem := rfl
@[simp] theorem State.beforeExecute_report (s : State) : s.beforeExecute.report = .none := rfl
@[simp] theorem State.beforeExecute_draws (s : State) : s.beforeExecute.draws = s.draws := rfl
@[simp] theorem State.beforeExecute_shl (s : State) : s.beforeExecute.shl = s.shl := rfl
@[simp] theorem State.beforeExecute_inbox (s : State) : s.beforeExecute.inbox = s.inbox := rfl
@[simp] theorem State.beforeExecute_host (s : State) : s.beforeExecute.host = s.host := rfl
@[simp] theorem State.beforeExecute_sent (s : State) : s.beforeExecute.sent = s.sent := rfl
@[simp] theorem State.reg_beforeExecute (s : State) (z : Reg) : s.beforeExecute.reg z = s.reg z := rfl
@[simp] theorem State.slot_beforeExecute (s : State) (j : Nibble) : s.beforeExecute.slot j = s.slot j := rfl
@[simp] theorem State.held_beforeExecute (s : State) (j : Nibble) : s.beforeExecute.held j = s.held j := rfl
@[simp] theorem State.memRead_beforeExecute (s : State) (a : Nat) : s.beforeExecute.memRead a = s.memRead a := rfl
@[simp] theorem State.dataAddr_beforeExecute (s : State) (j : Nat) : s.beforeExecute.dataAddr j = s.dataAddr j := rfl
@[simp] theorem State.readData_beforeExecute (s : State) (j : Nat) : s.beforeExecute.readData j = s.readData j := rfl

/-! ### The host's schedule (spec/00_scope.md R9, 70_reset_and_hazards.md R209) -/

/-- Taking an event out moves the schedule on by one, listed or not. -/
theorem State.upcoming_takeEvent (s : State) (n : Nat) : s.takeEvent.upcoming n = s.upcoming (n + 1) := by
  simp only [State.upcoming, State.takeEvent_inbox, State.takeEvent_host, State.takeEvent_sent, List.getElem?_tail,
    Nat.add_assoc, Nat.add_comm 1 n]

/-- A schedule is determined by its three fields. -/
theorem State.upcoming_congr {s t : State} (hi : t.inbox = s.inbox) (hh : t.host = s.host) (hs : t.sent = s.sent)
    (n : Nat) : t.upcoming n = s.upcoming n := by
  rw [State.upcoming, State.upcoming, hi, hh, hs]

@[simp] theorem State.nextEvent_scheduleTick (s : State) : s.scheduleTick.nextEvent = .tick := rfl

/-- No instruction touches the host's schedule. -/
theorem exec_schedule {i : Instr} {s t : State} (h : exec i s = .next t) :
    t.inbox = s.inbox ∧ t.host = s.host ∧ t.sent = s.sent := by
  cases i with
  | ret => rcases execRet_cases s t h with ⟨-, rfl⟩ | ⟨-, -, rfl⟩ <;> exact ⟨rfl, rfl, rfl⟩
  | call nnn => rcases execCall_cases s t nnn h with ⟨-, rfl⟩ | ⟨-, -, rfl⟩ <;> exact ⟨rfl, rfl, rfl⟩
  | ldB | store | load => injection h with h; subst h; simp
  | seImm | sneImm | seReg | sneReg | skp | sknp => injection h with h; subst h; rw [State.skipIf_eq]; exact ⟨rfl, rfl, rfl⟩
  | _ => injection h with h; subst h; exact ⟨rfl, rfl, rfl⟩

/-- No event touches what the host sends after it. -/
theorem deliver_schedule {e : Event} {s t : State} (h : deliver e s = .next t) :
    t.inbox = s.inbox ∧ t.host = s.host ∧ t.sent = s.sent := by
  cases e with
  | tick =>
    by_cases hr : s.runState = .running
    · exact exec_schedule (s := s.beforeExecute) ((tick_of_running s hr).symm.trans h)
    · injection (tick_of_not_running s hr).symm.trans h with h
      subst h
      exact ⟨rfl, rfl, rfl⟩
  | load image => injection h with h; subst h; unfold State.loadImage; split_ifs <;> exact ⟨rfl, rfl, rfl⟩
  | resumeReq => injection h with h; subst h; unfold State.resume; split <;> exact ⟨rfl, rfl, rfl⟩
  | pauseReq => injection h with h; subst h; unfold State.pause; split <;> exact ⟨rfl, rfl, rfl⟩
  | keyDown k => injection h with h; subst h; unfold State.keyDown; split <;> exact ⟨rfl, rfl, rfl⟩
  | dbgWrite target =>
    injection h with h
    subst h
    unfold State.dbgWrite
    split
    · cases target with
      | sp n => unfold State.dbgStore; dsimp only; split_ifs <;> exact ⟨rfl, rfl, rfl⟩
      | _ => exact ⟨rfl, rfl, rfl⟩
    all_goals exact ⟨rfl, rfl, rfl⟩
  | reset | keyUp | dbgRead | displayRead => injection h with h; subst h; exact ⟨rfl, rfl, rfl⟩

/-- A step that moves the schedule on keeps the premise that TICKs keep coming. -/
theorem State.HostTicks.shift {s t : State} (h : s.HostTicks) (hst : ∀ n, t.upcoming n = s.upcoming (n + 1)) :
    t.HostTicks := fun n =>
  have ⟨m, hm, hm'⟩ := h (n + 1)
  ⟨m - 1, by omega, by rw [hst, Nat.sub_add_cancel (by omega), hm']⟩

/-- A step that moves the schedule on keeps the premise that key presses keep coming. -/
theorem State.HostPressesKeys.shift {s t : State} (h : s.HostPressesKeys)
    (hst : ∀ n, t.upcoming n = s.upcoming (n + 1)) : t.HostPressesKeys := fun n =>
  have ⟨m, k, hm, hm'⟩ := h (n + 1)
  ⟨m - 1, k, by omega, by rw [hst, Nat.sub_add_cancel (by omega), hm']⟩

end Sys2Proof.Machine
end

