-- ==== Sys2Proof/Laws/PerInstr.lean ====
section
/-! SUPPORT. A statement made for every instruction as syntax: the high nibble of its word is its family's (spec/30_encoding.md
R75, R76). -/

namespace Sys2Proof.Laws.EncodedFamily

/-- The family of an instruction: the first digit of its pattern in R76. -/
def family : Instr → Nibble
  | .cls | .ret | .nop0 _ => 0x0
  | .jp _ => 0x1
  | .call _ => 0x2
  | .seImm _ _ => 0x3
  | .sneImm _ _ => 0x4
  | .seReg _ _ _ => 0x5
  | .ldImm _ _ => 0x6
  | .addImm _ _ => 0x7
  | .ldReg _ _ | .orReg _ _ | .andReg _ _ | .xorReg _ _ | .addReg _ _ | .sub _ _ | .shr _ _ | .subn _ _ | .shl _ _
  | .nop8 _ _ _ => 0x8
  | .sneReg _ _ _ => 0x9
  | .ldI _ => 0xA
  | .jpV0 _ => 0xB
  | .rnd _ _ => 0xC
  | .drw _ _ _ => 0xD
  | .skp _ | .sknp _ | .nope _ _ => 0xE
  | .ldVxDt _ | .ldVxK _ | .ldDtVx _ | .ldStVx _ | .addI _ | .ldF _ | .ldB _ | .store _ | .load _ | .nopf _ _ => 0xF

/-- The field `op` of an instruction's word is its family. -/
def Statement (i : Instr) : Prop := fieldOp (encode i) = family i

theorem fieldOp_wordA (op : Nibble) (nnn : Addr12) : fieldOp (wordA op nnn) = op := by
  apply BitVec.eq_of_toNat_eq
  have := nnn.isLt
  rw [toNat_fieldOp, toNat_wordA]
  omega

theorem fieldOp_wordXK (op : Nibble) (x : Reg) (kk : Byte) : fieldOp (wordXK op x kk) = op := by
  apply BitVec.eq_of_toNat_eq
  have := x.isLt
  have := kk.isLt
  rw [toNat_fieldOp, toNat_wordXK]
  omega

theorem fieldOp_wordXYN (op : Nibble) (x y : Reg) (n : Nibble) : fieldOp (wordXYN op x y n) = op := by
  apply BitVec.eq_of_toNat_eq
  have := x.isLt
  have := y.isLt
  have := n.isLt
  rw [toNat_fieldOp, toNat_wordXYN]
  omega

theorem cls : Statement (.cls) := rfl
theorem ret : Statement (.ret) := rfl
theorem nop0 (nnn : Addr12) : Statement (.nop0 nnn) := fieldOp_wordA _ _
theorem jp (nnn : Addr12) : Statement (.jp nnn) := fieldOp_wordA _ _
theorem call (nnn : Addr12) : Statement (.call nnn) := fieldOp_wordA _ _
theorem seImm (x : Reg) (kk : Byte) : Statement (.seImm x kk) := fieldOp_wordXK _ _ _
theorem sneImm (x : Reg) (kk : Byte) : Statement (.sneImm x kk) := fieldOp_wordXK _ _ _
theorem seReg (x y : Reg) (ign : Nibble) : Statement (.seReg x y ign) := fieldOp_wordXYN _ _ _ _
theorem ldImm (x : Reg) (kk : Byte) : Statement (.ldImm x kk) := fieldOp_wordXK _ _ _
theorem addImm (x : Reg) (kk : Byte) : Statement (.addImm x kk) := fieldOp_wordXK _ _ _
theorem ldReg (x y : Reg) : Statement (.ldReg x y) := fieldOp_wordXYN _ _ _ _
theorem orReg (x y : Reg) : Statement (.orReg x y) := fieldOp_wordXYN _ _ _ _
theorem andReg (x y : Reg) : Statement (.andReg x y) := fieldOp_wordXYN _ _ _ _
theorem xorReg (x y : Reg) : Statement (.xorReg x y) := fieldOp_wordXYN _ _ _ _
theorem addReg (x y : Reg) : Statement (.addReg x y) := fieldOp_wordXYN _ _ _ _
theorem sub (x y : Reg) : Statement (.sub x y) := fieldOp_wordXYN _ _ _ _
theorem shr (x : Reg) (ign : Nibble) : Statement (.shr x ign) := fieldOp_wordXYN _ _ _ _
theorem subn (x y : Reg) : Statement (.subn x y) := fieldOp_wordXYN _ _ _ _
theorem shl (x y : Reg) : Statement (.shl x y) := fieldOp_wordXYN _ _ _ _
theorem nop8 (ignX ignY : Nibble) (n : Nibble) : Statement (.nop8 ignX ignY n) := fieldOp_wordXYN _ _ _ _
theorem sneReg (x y : Reg) (ign : Nibble) : Statement (.sneReg x y ign) := fieldOp_wordXYN _ _ _ _
theorem ldI (nnn : Addr12) : Statement (.ldI nnn) := fieldOp_wordA _ _
theorem jpV0 (nnn : Addr12) : Statement (.jpV0 nnn) := fieldOp_wordA _ _
theorem rnd (x : Reg) (kk : Byte) : Statement (.rnd x kk) := fieldOp_wordXK _ _ _
theorem drw (x y : Reg) (n : Nibble) : Statement (.drw x y n) := fieldOp_wordXYN _ _ _ _
theorem skp (x : Reg) : Statement (.skp x) := fieldOp_wordXK _ _ _
theorem sknp (x : Reg) : Statement (.sknp x) := fieldOp_wordXK _ _ _
theorem nope (ignX : Nibble) (kk : Byte) : Statement (.nope ignX kk) := fieldOp_wordXK _ _ _
theorem ldVxDt (x : Reg) : Statement (.ldVxDt x) := fieldOp_wordXK _ _ _
theorem ldVxK (x : Reg) : Statement (.ldVxK x) := fieldOp_wordXK _ _ _
theorem ldDtVx (x : Reg) : Statement (.ldDtVx x) := fieldOp_wordXK _ _ _
theorem ldStVx (x : Reg) : Statement (.ldStVx x) := fieldOp_wordXK _ _ _
theorem addI (x : Reg) : Statement (.addI x) := fieldOp_wordXK _ _ _
theorem ldF (x : Reg) : Statement (.ldF x) := fieldOp_wordXK _ _ _
theorem ldB (x : Reg) : Statement (.ldB x) := fieldOp_wordXK _ _ _
theorem store (x : Reg) : Statement (.store x) := fieldOp_wordXK _ _ _
theorem load (x : Reg) : Statement (.load x) := fieldOp_wordXK _ _ _
theorem nopf (ignX : Nibble) (kk : Byte) : Statement (.nopf ignX kk) := fieldOp_wordXK _ _ _

end Sys2Proof.Laws.EncodedFamily
end

