-- ==== Sys2Proof/Tests/Slice0.lean ====
section
/-! SUPPORT. Tests of the model: WellFormed's checks, one word written out per row of the opcode table, one step per
instruction with the result spec/95_test_vectors.md gives (T<n>, E<n>), and for every obligation with hypotheses a
witness that meets them. -/

open Sys2Proof Sys2Proof.Machine

namespace Sys2Proof.Tests

/-- The step vector of 95_test_vectors.md: `Running`, the word at `PC`, one TICK. -/
def runWord (s : State) (w : Nat) : Result := step (s.withFetchWord 16 w)

/-- The answer is a next state of which `p` holds. -/
def gives (r : Result) (p : State → Bool) : Bool :=
  match r with
  | .next t => p t
  | .fault _ | .refused _ => false

/-- Every pixel is off. -/
def dark (d : Display) : Bool := d.toList.all fun row => row.toList.all fun p => !p

/-- The state after reset. -/
abbrev s0 : State := State.reset

/-- The state after reset under the premise that the host keeps ticking (70_reset_and_hazards.md R209). -/
def ticking : State := { s0 with host := .ticking }

/-- A state in `WaitingForKey(r)` whose host keeps ticking. -/
def waiting (r : Reg) : State := ticking.setRunState (.waitingForKey r)

/-- The state after reset, `Running`, whose host keeps ticking. -/
def running : State := ticking.setRunState .running

/-! ### WellFormed refuses an ill-formed term for each of its checks (30_encoding.md R79) -/

theorem test_wf_nop0_cls : (Instr.nop0 0x0E0).wf = false := by decide
theorem test_wf_nop0_ret : (Instr.nop0 0x0EE).wf = false := by decide
theorem test_wf_nop8 : (family8Effects.all fun n => (Instr.nop8 0x1 0x2 n).wf == false) = true := by decide
theorem test_wf_nope : (familyEEffects.all fun kk => (Instr.nope 0x1 kk).wf == false) = true := by decide
theorem test_wf_nopf : (familyFEffects.all fun kk => (Instr.nopf 0x1 kk).wf == false) = true := by decide
theorem test_wf_accepts : (Instr.nop0 0x0E1).wf = true ∧ (Instr.nop8 0x1 0x2 0xF).wf = true ∧
    (Instr.nope 0x0 0x9F).wf = true ∧ (Instr.nopf 0xF 0xFF).wf = true := by decide

/-! ### One word per row, bit by bit from the patterns of 30_encoding.md R76: `op`, `x`, `y`, `n` -/

theorem test_decode_cls : decodeWord 0b0000_0000_1110_0000 = .cls := by decide
theorem test_decode_ret : decodeWord 0b0000_0000_1110_1110 = .ret := by decide
theorem test_decode_nop0 : decodeWord 0b0000_0001_0010_0011 = .nop0 0x123 := by decide
theorem test_decode_jp : decodeWord 0b0001_0010_0011_0100 = .jp 0x234 := by decide
theorem test_decode_call : decodeWord 0b0010_0010_0000_1010 = .call 0x20A := by decide
theorem test_decode_seImm : decodeWord 0b0011_0100_0101_0110 = .seImm 4 0x56 := by decide
theorem test_decode_sneImm : decodeWord 0b0100_0001_0000_0001 = .sneImm 1 0x01 := by decide
theorem test_decode_seReg : decodeWord 0b0101_0010_0011_1111 = .seReg 2 3 0xF := by decide
theorem test_decode_ldImm : decodeWord 0b0110_1010_0111_1111 = .ldImm 10 0x7F := by decide
theorem test_decode_addImm : decodeWord 0b0111_0011_1100_1000 = .addImm 3 0xC8 := by decide
theorem test_decode_ldReg : decodeWord 0b1000_1110_1111_0000 = .ldReg 14 15 := by decide
theorem test_decode_orReg : decodeWord 0b1000_0001_0010_0001 = .orReg 1 2 := by decide
theorem test_decode_andReg : decodeWord 0b1000_0001_0010_0010 = .andReg 1 2 := by decide
theorem test_decode_xorReg : decodeWord 0b1000_0001_0010_0011 = .xorReg 1 2 := by decide
theorem test_decode_addReg : decodeWord 0b1000_0100_0101_0100 = .addReg 4 5 := by decide
theorem test_decode_sub : decodeWord 0b1000_0110_0101_0101 = .sub 6 5 := by decide
theorem test_decode_shr : decodeWord 0b1000_0010_1111_0110 = .shr 2 0xF := by decide
theorem test_decode_subn : decodeWord 0b1000_0011_0001_0111 = .subn 3 1 := by decide
theorem test_decode_shl : decodeWord 0b1000_0000_0001_1110 = .shl 0 1 := by decide
theorem test_decode_nop8 : decodeWord 0b1000_0001_0010_1111 = .nop8 0x1 0x2 0xF := by decide
theorem test_decode_sneReg : decodeWord 0b1001_0010_0011_0111 = .sneReg 2 3 0x7 := by decide
theorem test_decode_ldI : decodeWord 0b1010_0010_0000_1110 = .ldI 0x20E := by decide
theorem test_decode_jpV0 : decodeWord 0b1011_0011_0000_0000 = .jpV0 0x300 := by decide
theorem test_decode_rnd : decodeWord 0b1100_0011_0000_1111 = .rnd 3 0x0F := by decide
theorem test_decode_drw : decodeWord 0b1101_0001_0010_0101 = .drw 1 2 5 := by decide
theorem test_decode_skp : decodeWord 0b1110_0101_1001_1110 = .skp 5 := by decide
theorem test_decode_sknp : decodeWord 0b1110_0101_1010_0001 = .sknp 5 := by decide
theorem test_decode_nope : decodeWord 0b1110_0000_1001_1111 = .nope 0x0 0x9F := by decide
theorem test_decode_ldVxDt : decodeWord 0b1111_0001_0000_0111 = .ldVxDt 1 := by decide
theorem test_decode_ldVxK : decodeWord 0b1111_0101_0000_1010 = .ldVxK 5 := by decide
theorem test_decode_ldDtVx : decodeWord 0b1111_0011_0001_0101 = .ldDtVx 3 := by decide
theorem test_decode_ldStVx : decodeWord 0b1111_0010_0001_1000 = .ldStVx 2 := by decide
theorem test_decode_addI : decodeWord 0b1111_0001_0001_1110 = .addI 1 := by decide
theorem test_decode_ldF : decodeWord 0b1111_1010_0010_1001 = .ldF 10 := by decide
theorem test_decode_ldB : decodeWord 0b1111_0100_0011_0011 = .ldB 4 := by decide
theorem test_decode_store : decodeWord 0b1111_0010_0101_0101 = .store 2 := by decide
theorem test_decode_load : decodeWord 0b1111_1111_0110_0101 = .load 15 := by decide
theorem test_decode_nopf : decodeWord 0b1111_0001_0111_0101 = .nopf 0x1 0x75 := by decide

/-- High byte first (20_memory.md R55, T2). -/
theorem test_decode_byte_order : decode [0x34, 0x12, 0x99] = .ok (.seImm 4 0x12, [0x99]) := by rfl

theorem test_decode_truncated : decode [0x34] = .error .truncated := by rfl

theorem test_decodeTableWord : decodeTableWord 16 0xD125 = some (.drw 1 2 5) := by decide

/-! ### Fetch -/

/-- T3: the fetch wraps inside memory, `PC` does not. -/
theorem test_fetch_wraps : gives (step ((running.setPc 0x0FFF).memWrite 0xFFF 0x6A))
    (fun t => t.reg 10 == 0xF0 && t.pc == 0x1001) = true := by decide

/-- T4: `PC` wraps at 65536. -/
theorem test_pc_wraps : gives (step (running.setPc 0xFFFE)) (fun t => t.pc == 0x0000) = true := by decide

/-! ### One step per instruction -/

/-- T19. -/
theorem test_cls : gives (runWord ((s0.setDisp (s0.disp.put 3 5 true)).setReg 15 1) 0x00E0)
    (fun t => dark t.disp && t.vf == 1 && t.pc == 0x202) = true := by decide

/-- T12. -/
theorem test_ret : gives (runWord (((s0.setSp 16).setSlot 15 0x0ABC).setPc 0x20C) 0x00EE)
    (fun t => t.sp == 15 && t.pc == 0x0ABC && t.slot 15 == 0x0ABC && t.report == .none) = true := by decide

/-- T9. -/
theorem test_ret_empty : gives (runWord (s0.setDt 2) 0x00EE)
    (fun t => t.report == .stackUnderflow && t.runState == .paused && t.sp == 0 && t.pc == 0x202 && t.dt == 1) = true := by
  decide

/-- T6. -/
theorem test_nop0 : gives (runWord (s0.setDt 5) 0x0FFF) (fun t => t.pc == 0x202 && t.dt == 4) = true := by decide

/-- T16. -/
theorem test_jp : gives (runWord (s0.setPc 0x20C) 0x120C) (fun t => t.pc == 0x20C) = true := by decide

/-- T14. -/
theorem test_call : gives (runWord ((s0.setSp 15).setPc 0x300) 0x2400)
    (fun t => t.slot 15 == 0x0302 && t.sp == 16 && t.pc == 0x0400 && t.report == .none) = true := by decide

/-- T15. -/
theorem test_call_full : gives (runWord (((s0.setSp 16).setPc 0x300).setSt 1) 0x2400)
    (fun t => t.report == .stackOverflow && t.runState == .paused && t.sp == 16 && t.pc == 0x0302 && t.st == 0) = true := by
  decide

/-- T20. -/
theorem test_seImm : gives (runWord (s0.setReg 4 0x56) 0x3456) (fun t => t.pc == 0x204) = true := by decide

/-- T21. -/
theorem test_seImm_no : gives (runWord (s0.setReg 4 0x55) 0x3456) (fun t => t.pc == 0x202) = true := by decide

/-- T22. -/
theorem test_sneImm : gives (runWord s0 0x4101) (fun t => t.pc == 0x204) = true := by decide

/-- T23. -/
theorem test_sneImm_no : gives (runWord (s0.setReg 1 1) 0x4101) (fun t => t.pc == 0x202) = true := by decide

/-- T7. -/
theorem test_seReg : gives (runWord ((s0.setReg 2 7).setReg 3 7) 0x523F) (fun t => t.pc == 0x204) = true := by decide

/-- T31. -/
theorem test_ldImm : gives (runWord s0 0x6F80) (fun t => t.reg 15 == 0x80) = true := by decide

/-- T28. -/
theorem test_addImm : gives (runWord ((s0.setReg 0 0xF0).setReg 15 7) 0x7020)
    (fun t => t.reg 0 == 0x10 && t.vf == 7) = true := by decide

/-- T30. -/
theorem test_addImm_vf : gives (runWord (s0.setReg 15 0xFF) 0x7F02) (fun t => t.reg 15 == 0x01) = true := by decide

/-- T40. -/
theorem test_ldReg : gives (runWord (s0.setReg 15 1) 0x8EF0) (fun t => t.reg 14 == 1) = true := by decide

/-- T41. -/
theorem test_orReg : gives (runWord (((s0.setReg 1 0x0F).setReg 2 0xF0).setReg 15 1) 0x8121)
    (fun t => t.reg 1 == 0xFF && t.vf == 1) = true := by decide

/-- T42. -/
theorem test_andReg : gives (runWord ((s0.setReg 1 0x3C).setReg 2 0x0F) 0x8122) (fun t => t.reg 1 == 0x0C) = true := by
  decide

/-- T43. -/
theorem test_xorReg : gives (runWord ((s0.setReg 1 0xFF).setReg 2 0x0F) 0x8123) (fun t => t.reg 1 == 0xF0) = true := by
  decide

/-- T45. -/
theorem test_addReg : gives (runWord ((s0.setReg 4 0xFF).setReg 5 0x01) 0x8454)
    (fun t => t.reg 4 == 0x00 && t.vf == 1) = true := by decide

/-- T48. -/
theorem test_addReg_vf : gives (runWord ((s0.setReg 15 0x10).setReg 1 0x20) 0x8F14) (fun t => t.reg 15 == 0) = true := by
  decide

/-- T51. -/
theorem test_sub : gives (runWord (s0.setReg 5 0x01) 0x8655) (fun t => t.reg 6 == 0xFF && t.vf == 0) = true := by decide

/-- T53. -/
theorem test_sub_equal : gives (runWord ((s0.setReg 6 7).setReg 5 7) 0x8655)
    (fun t => t.reg 6 == 0x00 && t.vf == 1) = true := by decide

/-- T55. -/
theorem test_shr : gives (runWord (s0.setReg 3 0x05) 0x8306) (fun t => t.reg 3 == 0x02 && t.vf == 1) = true := by decide

/-- T58. -/
theorem test_shr_vf : gives (runWord (s0.setReg 15 0x03) 0x8F06) (fun t => t.reg 15 == 0x00) = true := by decide

/-- T60. -/
theorem test_subn : gives (runWord ((s0.setReg 3 0x01).setReg 1 0xFF) 0x8317)
    (fun t => t.reg 3 == 0x00 && t.vf == 1) = true := by decide

/-- T61. -/
theorem test_subn_vf : gives (runWord s0 0x8F17) (fun t => t.reg 15 == 1) = true := by decide

/-- T66. -/
theorem test_shl : gives (runWord ((s0.setReg 0 0xA0).setReg 1 9) 0x801E)
    (fun t => t.reg 0 == 0x40 && t.vf == 1) = true := by decide

/-- T69. -/
theorem test_shl_self : gives (runWord (s0.setReg 0 0x03) 0x800E) (fun t => t.reg 0 == 0x18 && t.vf == 0) = true := by
  decide

/-- T70. -/
theorem test_nop8 : gives (runWord (s0.setReg 1 9) 0x812F) (fun t => t.pc == 0x202 && t.reg 1 == 9) = true := by decide

/-- T26. -/
theorem test_sneReg : gives (runWord ((s0.setReg 2 1).setReg 3 2) 0x9230) (fun t => t.pc == 0x204) = true := by decide

/-- T25. -/
theorem test_sneReg_no : gives (runWord s0 0x9770) (fun t => t.pc == 0x202) = true := by decide

/-- Program P2, TICK 2. -/
theorem test_ldI : gives (runWord s0 0xA300) (fun t => t.i == 0x300 && t.pc == 0x202) = true := by decide

/-- T18. -/
theorem test_jpV0 : gives (runWord (s0.setReg 0 0xFF) 0xBFFF) (fun t => t.pc == 0x10FE) = true := by decide

/-- T78: a mask of 0 gives 0 whatever byte is drawn. -/
theorem test_rnd : ∃ t, runWord (s0.setReg 3 5) 0xC300 = .next t ∧ t.reg 3 = 0 ∧ t.draws = 1 :=
  ⟨_, rfl, BitVec.and_zero, rfl⟩

/-- Program P3, TICK 4: both wraps. -/
theorem test_drw : gives (runWord (((((s0.setReg 1 0x3E).setReg 2 0x1F).setI 0x20E).memWrite 0x20E 0xC0).memWrite 0x20F 0x81)
      0xD122)
    (fun t => t.disp.get 31 62 && t.disp.get 31 63 && t.disp.get 0 62 && t.disp.get 0 5 && !t.disp.get 31 5 &&
      t.vf == 0) = true := by decide

/-- T86. -/
theorem test_drw_none : gives (runWord (s0.setReg 15 1) 0xD120) (fun t => dark t.disp && t.vf == 0) = true := by
  decide

/-- T99. -/
theorem test_skp : gives (runWord (((s0.setReg 5 0x13).setKey 3 true).setPc 0x202) 0xE59E) (fun t => t.pc == 0x206) = true := by
  decide

/-- T96. -/
theorem test_skp_no : gives (runWord ((s0.setReg 5 7).setPc 0x202) 0xE59E) (fun t => t.pc == 0x204) = true := by decide

/-- T97. -/
theorem test_sknp : gives (runWord ((s0.setReg 5 7).setPc 0x202) 0xE5A1) (fun t => t.pc == 0x206) = true := by decide

/-- T98. -/
theorem test_sknp_no : gives (runWord (((s0.setReg 5 7).setKey 7 true).setPc 0x202) 0xE5A1) (fun t => t.pc == 0x204) = true := by
  decide

/-- T100. -/
theorem test_nope : gives (runWord (s0.setPc 0x202) 0xE500) (fun t => t.pc == 0x204) = true := by decide

/-- T105. -/
theorem test_ldVxDt : gives (runWord (s0.setDt 3) 0xF107) (fun t => t.dt == 2 && t.reg 1 == 2) = true := by decide

/-- T106. -/
theorem test_ldVxDt_zero : gives (runWord (s0.setReg 1 9) 0xF107) (fun t => t.dt == 0 && t.reg 1 == 0) = true := by decide

/-- T119. -/
theorem test_ldVxK : gives (runWord ((s0.setKey 2 true).setReg 5 9) 0xF50A)
    (fun t => t.runState == .waitingForKey 5 && t.pc == 0x202 && t.reg 5 == 9) = true := by decide

/-- T107. -/
theorem test_ldDtVx : gives (runWord ((s0.setReg 0 3).setDt 9) 0xF015) (fun t => t.dt == 3) = true := by decide

/-- T108. -/
theorem test_ldStVx : gives (runWord (s0.setReg 2 0x10) 0xF218) (fun t => t.st == 0x10) = true := by decide

/-- T109. -/
theorem test_addI : gives (runWord ((s0.setI 0x0FFF).setReg 1 2) 0xF11E) (fun t => t.i == 0x1001 && t.vf == 0) = true := by
  decide

/-- T110. -/
theorem test_addI_wraps : gives (runWord ((s0.setI 0xFFFF).setReg 1 1) 0xF11E) (fun t => t.i == 0x0000) = true := by decide

/-- T112. -/
theorem test_ldF : gives (runWord (s0.setReg 0 0xFF) 0xF029) (fun t => t.i == 0x04FB) = true := by decide

/-- T113. -/
theorem test_ldB : gives (runWord ((s0.setReg 0 254).setI 0x300) 0xF033)
    (fun t => t.memRead 0x300 == 2 && t.memRead 0x301 == 5 && t.memRead 0x302 == 4) = true := by decide

/-- T115. -/
theorem test_ldB_wraps : gives (runWord ((s0.setReg 0 128).setI 0x0FFF) 0xF033)
    (fun t => t.memRead 0xFFF == 1 && t.memRead 0x000 == 2 && t.memRead 0x001 == 8) = true := by decide

/-- T116. -/
theorem test_store : gives (runWord ((((s0.setReg 0 1).setReg 1 2).setReg 2 3).setI 0x400) 0xF255)
    (fun t => t.memRead 0x400 == 1 && t.memRead 0x402 == 3 && t.memRead 0x403 == 0 && t.i == 0x400) = true := by decide

/-- T118, with `I` at the default font: all sixteen registers. -/
theorem test_load : gives (runWord s0 0xFF65)
    (fun t => t.reg 0 == 0xF0 && t.reg 5 == 0x20 && t.reg 15 == 0xF0 && t.i == 0) = true := by decide

/-- Program P2, TICK 6. -/
theorem test_load_block : gives (runWord ((((s0.setI 0x300).memWrite 0x300 2).memWrite 0x301 5).memWrite 0x302 4) 0xF265)
    (fun t => t.reg 0 == 2 && t.reg 1 == 5 && t.reg 2 == 4 && t.reg 3 == 0) = true := by decide

/-- T120. -/
theorem test_nopf : gives (runWord s0 0xF0FF) (fun t => t.pc == 0x202) = true := by decide

/-! ### The compositor and the bits of a byte -/

/-- T83. -/
theorem test_composite_collides :
    let d := (compositeSprite 0 0 [0xE0] Display.blank).1
    let e := compositeSprite 2 0 [0xF0] (d.put 0 3 true)
    (e.2 && e.1.get 0 0 && e.1.get 0 1 && !e.1.get 0 2 && !e.1.get 0 3 && e.1.get 0 4 && e.1.get 0 5) = true := by decide

/-- E8. -/
theorem test_composite_wraps :
    let e := compositeSprite 63 0 [0xC0] Display.blank
    (e.1.get 0 63 && e.1.get 0 0 && !e.1.get 0 1 && !e.1.get 1 0 && !e.2) = true := by decide

/-- E9. -/
theorem test_bits : spriteBits 0b10101010 = [true, false, true, false, true, false, true, false] := by decide

/-! ### Events -/

/-- T131: a TICK while `Paused`. -/
theorem test_tick_paused : gives (step (ticking.setDt 5)) (fun t => t.dt == 5 && t.pc == 0x200) = true := by decide

/-- T132: a TICK in the key wait. -/
theorem test_tick_waiting : gives (step ((waiting 5).setDt 5))
    (fun t => t.dt == 5 && t.runState == .waitingForKey 5) = true := by decide

/-- T134. -/
theorem test_timers : gives (step ((running.setDt 2).setSt 1)) (fun t => t.dt == 1 && t.st == 0) = true := by decide

/-- T135. -/
theorem test_pause : gives (step (running.setInbox [.pauseReq, .tick]))
    (fun t => t.runState == .paused && t.inbox == [.tick]) = true := by decide

/-- T136. -/
theorem test_pause_waiting : gives (step ((waiting 5).setInbox [.pauseReq])) (fun t => t.runState == .waitingForKey 5) = true := by
  decide

/-- T140. -/
theorem test_keyDown_waiting : gives (step ((waiting 5).setInbox [.keyDown 7]))
    (fun t => t.reg 5 == 7 && t.held 7 && t.runState == .running && t.pc == 0x200) = true := by decide

/-- T139. -/
theorem test_keyUp_waiting : gives (step (((waiting 5).setKey 2 true).setInbox [.keyUp 2]))
    (fun t => !t.held 2 && t.runState == .waitingForKey 5) = true := by decide

/-- T142. -/
theorem test_dbgWrite_running : gives (step (running.setInbox [.dbgWrite (.v 0 5)])) (fun t => t.reg 0 == 0) = true := by
  decide

/-- T143. -/
theorem test_dbgWrite_sp : gives (step (s0.setInbox [.dbgWrite (.sp 17)])) (fun t => t.sp == 0) = true := by decide

/-- T145. -/
theorem test_load_image : gives (step ((((running.setReg 3 9).setKey 1 true).memWrite 0x300 0x77).setInbox [.load [0x12, 0x00]]))
    (fun t => t.runState == .paused && t.reg 3 == 0 && t.pc == 0x200 && t.memRead 0x200 == 0x12 && t.memRead 0x201 == 0 &&
      t.memRead 0x300 == 0x77 && t.held 1) = true := by decide

/-- R200 with a `FONT` other than the default. -/
theorem test_reset_event : gives (step ((running.memWrite 0x300 1).setInbox [.reset (defaultFont.set 79 0x11)]))
    (fun t => t.memRead 0x000 == 0xF0 && t.memRead 0x04F == 0x11 && t.memRead 0x300 == 0 && t.runState == .paused) = true := by
  decide

/-- withFetchWord keeps a schedule and puts the TICK first. -/
theorem test_withFetchWord_inbox : gives (step ((s0.setInbox [.pauseReq]).withFetchWord 16 0x6A7F))
    (fun t => t.reg 10 == 0x7F && t.inbox == [.pauseReq]) = true := by decide

/-! ### Witnesses: for every obligation with hypotheses, a state and operands that meet all of them, at boundary values
where it has several clauses -/

/-- O1: the widest fields, and the discriminator next to an effect row. -/
theorem witness_DecodeInvertsEncode : (Instr.drw 15 15 0xF).WellFormed ∧ (Instr.nop8 0xF 0xF 0x8).WellFormed ∧
    (Instr.nop0 0x0EF).WellFormed ∧ (Instr.nopf 0x0 0x64).WellFormed := by decide

/-- O5: a word placed at `PC`, and the same with the fetch across the top of memory. -/
theorem witness_StepRunsDecodedInstruction :
    (let s := running.withFetchWord 16 0x6A7F
     s.runState = .running ∧ s.nextEvent = .tick ∧
       decode [s.memRead s.pc.toNat, s.memRead (s.pc.toNat + 1)] = .ok (.ldImm 10 0x7F, [])) ∧
    (let s := (running.setPc 0xFFFF).withFetchWord 16 0x00EE
     s.runState = .running ∧ s.nextEvent = .tick ∧
       decode [s.memRead s.pc.toNat, s.memRead (s.pc.toNat + 1)] = .ok (.ret, [])) := ⟨⟨rfl, rfl, rfl⟩, rfl, rfl, rfl⟩

/-- O6: both states that ignore TICK. -/
theorem witness_TickIgnoredUnlessRunning :
    (ticking.runState ≠ .running ∧ ticking.nextEvent = .tick) ∧
    (waiting 15).runState ≠ .running ∧ (waiting 15).nextEvent = .tick := by decide

/-- O7: the boundary of `SP`, with a listed byte. -/
theorem witness_StepAnswersAndKeepsInv : ((s0.setSp 16).memWrite 0xFFF 7).Inv := by decide

/-- O10 ResetLeavesChosenValues, O11 ResetEventPlacesFont: both ends of the font and of the memory above it. -/
theorem witness_ResetEventPlacesFont : 0 < 80 ∧ 79 < 80 ∧ (80 ≤ 80 ∧ 80 < 4096) ∧ 80 ≤ 4095 ∧ 4095 < 4096 := by decide

/-- O12: a next state of each kind of change of `STATE`. -/
theorem witness_RunStateChangesOnlyAsListed :
    (∃ t, deliver .resumeReq s0 = .next t) ∧ (∃ t, deliver .pauseReq running = .next t) ∧
    (∃ t, deliver .tick (running.placeWord 0x00EE) = .next t ∧ t.runState = .paused) ∧
    (∃ t, deliver .tick ((running.setSp 16).placeWord 0x2400) = .next t ∧ t.runState = .paused) ∧
    (∃ t, deliver .tick (running.placeWord 0xFF0A) = .next t ∧ t.runState = .waitingForKey 15) ∧
    (∃ t, deliver (.keyDown 0) (waiting 15) = .next t ∧ t.runState = .running) ∧
    (∃ t, deliver (.load []) running = .next t) ∧ ∃ t, deliver (.reset defaultFont) running = .next t :=
  ⟨⟨_, rfl⟩, ⟨_, rfl⟩, ⟨_, rfl, rfl⟩, ⟨_, rfl, rfl⟩, ⟨_, rfl, rfl⟩, ⟨_, rfl, rfl⟩, ⟨_, rfl⟩, _, rfl⟩

/-- O13: each fault, and no fault at the last empty slot. -/
theorem witness_ReportNamesTheTwoFaults :
    (∃ t, deliver .tick (running.placeWord 0x00EE) = .next t ∧ t.report = .stackUnderflow) ∧
    (∃ t, deliver .tick ((running.setSp 16).placeWord 0x2400) = .next t ∧ t.report = .stackOverflow) ∧
    ∃ t, deliver .tick ((running.setSp 15).placeWord 0x2400) = .next t ∧ t.report = .none :=
  ⟨⟨_, rfl, rfl⟩, ⟨_, rfl, rfl⟩, _, rfl, rfl⟩

/-- O14: `x = 15` of a row that writes the flag, and the collision flag. -/
theorem witness_FlagWritersLeaveZeroOrOne :
    (writesFlag (.shr 15 0) = true ∧ ∃ t, exec (.shr 15 0) (s0.setReg 15 3) = .next t) ∧
    writesFlag (.drw 1 2 15) = true ∧ ∃ t, exec (.drw 1 2 15) s0 = .next t := ⟨⟨rfl, _, rfl⟩, rfl, _, rfl⟩

/-- O15: a register block of all sixteen, a stack fault, a store. -/
theorem witness_EveryInstructionKeepsItsFrame :
    (∃ t, exec (.load 15) s0 = .next t) ∧ (∃ t, exec .ret s0 = .next t) ∧ ∃ t, exec (.store 0) s0 = .next t :=
  ⟨⟨_, rfl⟩, ⟨_, rfl⟩, _, rfl⟩

/-- O16: an address just past a store that wraps, and one before an instruction that stores nothing. -/
theorem witness_StoresTouchOnlyTheirBytes :
    ((∃ t, exec (.ldB 0) (s0.setI 0x0FFF) = .next t) ∧
      ∀ k, k < storedBytes (.ldB 0) → 0x002 % 4096 ≠ (s0.setI 0x0FFF).dataAddr k) ∧
    (∃ t, exec (.load 3) s0 = .next t) ∧ ∀ k, k < storedBytes (.load 3) → 0x000 % 4096 ≠ s0.dataAddr k := by
  refine ⟨⟨⟨_, rfl⟩, ?_⟩, ⟨_, rfl⟩, ?_⟩ <;> decide

/-- O17: a LOAD, and a TICK. -/
theorem witness_KeysChangeOnlyByKeyEvents :
    ((∃ t, deliver (.load [1]) (s0.setKey 15 true) = .next t) ∧ (∀ k, Event.load [1] ≠ .keyDown k) ∧
      (∀ k, Event.load [1] ≠ .keyUp k) ∧ ∀ font, Event.load [1] ≠ .reset font) ∧
    (∃ t, deliver .tick (running.setKey 0 true) = .next t) ∧ (∀ k, Event.tick ≠ .keyDown k) ∧
      (∀ k, Event.tick ≠ .keyUp k) ∧ ∀ font, Event.tick ≠ .reset font := by
  refine ⟨⟨⟨_, rfl⟩, ?_⟩, ⟨_, rfl⟩, ?_⟩ <;> simp

/-- O18: the instruction that writes `ST`, and one that does not. -/
theorem witness_SoundTimerNeverRead :
    (∃ t, exec (.ldStVx 2) ((s0.setReg 2 9).setSt 3) = .next t) ∧ ∃ t, exec (.ldVxDt 2) (s0.setSt 3) = .next t :=
  ⟨⟨_, rfl⟩, _, rfl⟩

/-- O19: two states that differ in the slot at index `SP`, at an empty stack and with one entry. -/
theorem witness_DeadSlotsUnobservable :
    (s0.sp ≤ 16 ∧ SameButDeadSlots s0 (s0.setSlot 0 7) ∧ ∃ t, exec (.call 0x300) s0 = .next t) ∧
    (s0.setSp 1).sp ≤ 16 ∧ SameButDeadSlots (s0.setSp 1) ((s0.setSp 1).setSlot 1 7) ∧
      ∃ t, exec .ret (s0.setSp 1) = .next t :=
  ⟨⟨by decide, ⟨fun k hk => absurd hk (Nat.not_lt_zero _), rfl⟩, _, rfl⟩, by decide, ⟨by decide, rfl⟩, _, rfl⟩

/-- O21: a memory with its two ends listed. -/
theorem witness_CanonicalMemoryIsUnique :
    Memory.wf [(0x000, 0x01), (0xFFF, 0x02)] = true ∧
    ((Memory.put [(0xFFF, 0x02)] 0x000 0x01).wf = true ∧
      ∀ a, a < 4096 → Memory.get [(0x000, 0x01), (0xFFF, 0x02)] a = (Memory.put [(0xFFF, 0x02)] 0x000 0x01).get a) :=
  ⟨by decide, by decide, fun _ _ => rfl⟩

/-- O23: each no-op row, and a TICK that carries one. -/
theorem witness_NoOpsHaveNoEffect :
    ((Instr.nop0 0x000).isNoOp = true ∧ (Instr.nop8 0 0 0xF).isNoOp = true ∧ (Instr.nope 0 0xA0).isNoOp = true ∧
      (Instr.nopf 0 0xFF).isNoOp = true) ∧
    running.runState = .running ∧ running.nextEvent = .tick ∧ (decodeWord running.fetchWord).isNoOp = true := by decide

/-- O24: both ends of the range of `SP`. -/
theorem witness_RetPopsIntoPc :
    (0 < (s0.setSp 1).sp.toNat ∧ (s0.setSp 1).sp.toNat ≤ 16) ∧
    0 < (s0.setSp 16).sp.toNat ∧ (s0.setSp 16).sp.toNat ≤ 16 := by decide

/-- O25 CallPushesAndJumps: both ends of the range of `SP`. -/
theorem witness_CallPushesAndJumps : s0.sp.toNat < 16 ∧ (s0.setSp 15).sp.toNat < 16 := by decide

/-- O26: the empty and the full stack. -/
theorem witness_StackFaultsPauseAndReport : s0.sp = 0 ∧ (s0.setSp 16).sp = 16 := by decide

/-- O27: a later state with the stack as the CALL left it, another register changed, at the last slot. -/
theorem witness_RetUndoesMatchingCall : (s0.setSp 15).sp.toNat < 16 ∧
    ∃ t, exec (.call 0x400) (s0.setSp 15) = .next t ∧
      ∃ u : State, u.sp = t.sp ∧ (∀ k : Nibble, k.toNat < t.sp.toNat → u.slot k = t.slot k) ∧ u.reg 3 ≠ t.reg 3 :=
  ⟨by decide, _, rfl, (((s0.setSp 15).push.setPc 0x400).setReg 3 9), rfl, fun _ _ => rfl, by decide⟩

/-- O31: a fetched LD Vx, kk in a running machine. -/
theorem witness_LdImmSetsRegister :
    let s := running.placeWord 0x6F80
    s.runState = .running ∧ s.nextEvent = .tick ∧ decodeWord s.fetchWord = .ldImm 15 0x80 := by decide

/-- O34 AddRegSumsAndCarries, O35 SubSubtractsAndFlagsNoBorrow, O36 ShrShiftsOneBitOut, O37 SubnGivesZeroAndOne, O38
ShlUsesShlFn: both sides of `x = 15`; O38: the machine with the default `SHL_FN`, and one with another. -/
theorem witness_FlagOrder : (14 : Reg) ≠ 15 ∧ (15 : Reg) = 15 ∧ s0.shl = .specDefault ∧
    ({ s0 with shl := .other } : State).shl ≠ .specDefault := by decide

/-- O39: ADD I, Vx moves `I` past 0xFFF. -/
theorem witness_LdISetsIndex : ∃ t, exec (.addI 1) ((s0.setI 0x0FFF).setReg 1 1) = .next t ∧
    ((s0.setI 0x0FFF).setReg 1 1).i.toNat ≤ 0xFFF ∧ 0xFFF < t.i.toNat := ⟨_, rfl, by decide, by decide⟩

/-- O40: RND's second clause, an instruction that draws nothing. -/
theorem witness_RndMasksOneDrawnByte :
    (∀ x kk, Instr.drw 1 2 3 ≠ .rnd x kk) ∧ ∃ t, exec (.drw 1 2 3) s0 = .next t := ⟨by simp, _, rfl⟩

/-- O41: the last row of the longest sprite. -/
theorem witness_DrwComposesSprite : 14 < (15 : Nibble).toNat := by decide

/-- O42: fifteen rows with their last row and column, and a pixel no row reaches. -/
theorem witness_CompositorXorsTargetPixels :
    ((List.replicate 15 (0xFF : Byte)).length ≤ 15 ∧ 14 < (List.replicate 15 (0xFF : Byte)).length ∧ 7 < 8) ∧
    ([0x80] : List Byte).length ≤ 15 ∧
      ∀ i j, i < ([0x80] : List Byte).length → j < 8 →
        ¬(31 % 32 = ((0 : Byte).toNat + i) % 32 ∧ 8 % 64 = ((0 : Byte).toNat + j) % 64) := by
  refine ⟨by decide, by decide, fun i j hi hj h => ?_⟩
  simp only [List.length_singleton] at hi
  simp at h
  omega

/-- O43 CollisionIffPixelTurnedOff, O44 DrawingTwiceRestoresDisplay: the longest sprite and the empty one. -/
theorem witness_CollisionIffPixelTurnedOff :
    (List.replicate 15 (0xFF : Byte)).length ≤ 15 ∧ ([] : List Byte).length ≤ 15 := by decide

/-- O45: the longest sprite ending at the last row, with its last row and column. -/
theorem witness_SpriteBitsMostSignificantFirst :
    let rows := List.replicate 15 (0x01 : Byte)
    rows.length ≤ 15 ∧ (17 : Byte).toNat % 32 + rows.length ≤ 32 ∧ ∃ h : 14 < rows.length,
      (spriteBits rows[14])[7]? = some true := by decide

/-- O46: the key of a register above 15 and of one at 15. -/
theorem witness_KeySkipsMovePc :
    (3 : Nibble).toNat = ((s0.setReg 5 0x13).reg 5).toNat % 16 ∧ (15 : Nibble).toNat = ((s0.setReg 5 15).reg 5).toNat % 16 := by
  decide

/-- O47: a fetched LD Vx, DT in a running machine, the timer at 0 and at 255. -/
theorem witness_LdVxDtReadsDecremented :
    (let s := running.placeWord 0xF107
     s.runState = .running ∧ s.nextEvent = .tick ∧ decodeWord s.fetchWord = .ldVxDt 1) ∧
    (let s := (running.setDt 255).placeWord 0xFF07
     s.runState = .running ∧ s.nextEvent = .tick ∧ decodeWord s.fetchWord = .ldVxDt 15) := by decide

/-- O48: a fetched LD DT, Vx and a fetched LD ST, Vx in a running machine. -/
theorem witness_TimerLoadsAreNotDecremented :
    (let s := (running.setReg 3 9).placeWord 0xF315
     s.runState = .running ∧ s.nextEvent = .tick ∧ decodeWord s.fetchWord = .ldDtVx 3) ∧
    (let s := (running.setReg 15 9).placeWord 0xFF18
     s.runState = .running ∧ s.nextEvent = .tick ∧ decodeWord s.fetchWord = .ldStVx 15) := by decide

/-- O51: an address just outside the digits, across the top of memory. -/
theorem witness_LdBStoresDecimalDigits :
    ∀ k, k < 3 → 0x002 % 4096 ≠ (s0.setI 0x0FFF).dataAddr k := by decide

/-- O52 StoreWritesRegisterBlock, O53 LoadReadsRegisterBlock: the registers of the shortest and the longest block, and an address just past each. -/
theorem witness_StoreWritesRegisterBlock :
    ((0 : Reg).toNat ≤ (0 : Reg).toNat ∧ ∀ k, k ≤ (0 : Reg).toNat → 0x401 % 4096 ≠ (s0.setI 0x400).dataAddr k) ∧
    (15 : Reg).toNat ≤ (15 : Reg).toNat ∧ ∀ k, k ≤ (15 : Reg).toNat → 0x410 % 4096 ≠ (s0.setI 0x400).dataAddr k := by decide

/-- O54: a later state with `I` and memory as the store left them, the stored registers changed. -/
theorem witness_LoadAfterStoreRestoresBlock :
    ∃ t, exec (.store 2) (s0.setI 0x400) = .next t ∧
      ∃ u : State, u.i = t.i ∧ (∀ a, u.memRead a = t.memRead a) ∧ u.reg 1 ≠ t.reg 1 :=
  ⟨_, rfl, (((s0.setI 0x400).writeData 0 ((s0.setI 0x400).regBlock 2)).setReg 1 9), rfl, fun _ => rfl, by decide⟩

/-- O55: KEY_DOWN in the wait for `V[15]`, in `Running` and in `Paused`. -/
theorem witness_KeyEventsSetFlagsAndEndWait :
    (waiting 15).runState = .waitingForKey 15 ∧ (∀ r, running.runState ≠ .waitingForKey r) ∧
    ∀ r, s0.runState ≠ .waitingForKey r := by
  refine ⟨rfl, ?_, ?_⟩ <;> simp [running, State.setRunState, State.reset]

/-- O57: `Paused`, the two other states, and both sides of the limit of `SP`. -/
theorem witness_DebugWritesOnlyWhilePaused :
    s0.runState = .paused ∧ running.runState ≠ .paused ∧ (waiting 0).runState ≠ .paused ∧
    (16 : Byte).toNat ≤ 16 ∧ ¬(17 : Byte).toNat ≤ 16 := by decide

/-- O58: the longest image with its last byte, and a byte next to a store of a TICK. -/
theorem witness_LoadedImageReadsBack :
    ((List.replicate 3584 (0x77 : Byte)).length ≤ 3584 ∧ 3583 < (List.replicate 3584 (0x77 : Byte)).length) ∧
    (let s := (running.setI 0x400).placeWord 0xF055
     (∃ t, deliver .tick s = .next t) ∧ (∀ image, Event.tick ≠ .load image) ∧ (∀ font, Event.tick ≠ .reset font) ∧
       (Event.tick = .tick → s.runState = .running → ∀ k, k < storedBytes (decodeWord s.fetchWord) → 0x401 % 4096 ≠ s.dataAddr k)) := by
  rw [List.length_replicate]
  refine ⟨by omega, ⟨_, rfl⟩, by simp, by simp, fun _ _ => by decide⟩

/-- O59: both sides of the image limit, and the bytes next to an image at both its ends. -/
theorem witness_LoadResetsAllButKeysAndRest :
    ((List.replicate 3584 (0x77 : Byte)).length ≤ 3584 ∧ 3584 < (List.replicate 3585 (0x77 : Byte)).length) ∧
    ([1, 2] : List Byte).length ≤ 3584 ∧ 0x1FF < 4096 ∧ 0x1FF < 0x200 ∧ 0x202 < 4096 ∧
      0x200 + ([1, 2] : List Byte).length ≤ 0x202 := by
  rw [List.length_replicate, List.length_replicate]
  decide

/-- O58: a TICK outside `Running` at a store word, for the very byte that word would store. -/
theorem witness_LoadedImageReadsBack_paused :
    let s := (s0.setI 0x400).placeWord 0xF055
    (∃ t, deliver .tick s = .next t) ∧ decodeWord s.fetchWord = .store 0 ∧ 0x400 % 4096 = s.dataAddr 0 ∧
      (Event.tick = .tick → s.runState = .running → ∀ k, k < storedBytes (decodeWord s.fetchWord) → 0x400 % 4096 ≠ s.dataAddr k) :=
  ⟨⟨_, rfl⟩, by decide, by decide, fun _ h => nomatch h⟩

/-- O60: each disjunct, RESET with a font other than the default. -/
theorem witness_ExecutionStartsAt200AfterResume : s0 = State.reset ∧
    (∃ s u, deliver (.reset (defaultFont.set 79 0x11)) u = .next s) ∧
    ∃ s u, ∃ image : List Byte, image.length ≤ 3584 ∧ deliver (.load image) u = .next s :=
  ⟨rfl, ⟨_, running, rfl⟩, _, running, [0x12, 0x34], by decide, rfl⟩

/-- A host that keeps ticking is a premise a state can meet. -/
theorem witness_HostTicks : ticking.HostTicks := fun n => ⟨n, Nat.le_refl n, rfl⟩

/-- The listed events come first, in their order, and then the host's (00_scope.md R9). -/
theorem test_upcoming : ((running.setInbox [.pauseReq, .keyDown 3]).upcoming 0 = .pauseReq) ∧
    (running.setInbox [.pauseReq, .keyDown 3]).upcoming 1 = .keyDown 3 ∧
    (running.setInbox [.pauseReq, .keyDown 3]).upcoming 2 = .tick := by decide

/-- After RESET nothing is known of the next event: it is the free value (R209). -/
theorem test_reset_host_unknown : s0.nextEvent = Config.hostEvent 0 := rfl

end Sys2Proof.Tests
end

section
/-! SUPPORT. Proofs about the start of execution (spec/10_state.md R36): the frames of the two updates it rests on, what
RESET and LOAD leave in `PC` and `STATE`, and O60. -/

namespace Sys2Proof.Machine

/-! ### Frames of single updates -/

/-- Setting the report output leaves everything else. -/
theorem frame_setReport (s : State) (r : Report) : Frame [] [.report] s (s.setReport r) := by
  refine ⟨fun _ _ => rfl, fun p hp => ?_⟩
  cases p with
  | report => exact absurd List.mem_cons_self hp
  | stack | key | mem => exact fun _ => rfl
  | disp => exact fun _ _ => rfl
  | _ => rfl

/-- Setting `STATE` leaves everything else. -/
theorem frame_setRunState (s : State) (r : RunState) : Frame [] [.runState] s (s.setRunState r) := by
  refine ⟨fun _ _ => rfl, fun p hp => ?_⟩
  cases p with
  | runState => exact absurd List.mem_cons_self hp
  | stack | key | mem => exact fun _ => rfl
  | disp => exact fun _ _ => rfl
  | _ => rfl

/-! ### RESUME_REQ, RESET and LOAD -/

theorem State.resume_of_paused (s : State) (h : s.runState = .paused) : s.resume = s.setRunState .running := by
  rw [State.resume, h]

theorem State.loadImage_of_accepted (s : State) (image : List Byte) (h : image.length ≤ Config.maxImage) :
    s.loadImage image = (s.setMem (s.mem.putList Config.progBase image)).loadResets := by
  rw [State.loadImage, if_pos h]

@[simp] theorem State.resetWith_runState (s : State) (font : Vector Byte 80) :
    (s.resetWith font).runState = .paused := rfl

@[simp] theorem State.resetWith_pc (s : State) (font : Vector Byte 80) :
    (s.resetWith font).pc = Config.pcReset := rfl

@[simp] theorem State.loadResets_runState (s : State) : s.loadResets.runState = .paused := rfl

@[simp] theorem State.loadResets_pc (s : State) : s.loadResets.pc = Config.pcReset := rfl

/-! ### The start of execution (spec/10_state.md R36) -/

/-- The states in which execution has not yet begun: after reset, after RESET with any `FONT`, after an
accepted LOAD. -/
inductive AtStart : State → Prop where
  | reset : AtStart State.reset
  | resetWith (u : State) (font : Vector Byte 80) : AtStart (u.resetWith font)
  | loaded (u : State) (image : List Byte) (h : image.length ≤ Config.maxImage) : AtStart (u.loadImage image)

theorem AtStart.runState {s : State} (h : AtStart s) : s.runState = .paused := by
  cases h with
  | reset => rfl
  | resetWith u font => simp
  | loaded u image hlen => simp [State.loadImage_of_accepted u image hlen]

theorem AtStart.pc {s : State} (h : AtStart s) : s.pc = Config.pcReset := by
  cases h with
  | reset => rfl
  | resetWith u font => simp
  | loaded u image hlen => simp [State.loadImage_of_accepted u image hlen]

/-- With `PC` at its reset value the next word is the one at 0x200 (spec/20_memory.md R53, R55). -/
theorem State.fetchWord_of_pcReset (s : State) (h : s.pc = Config.pcReset) :
    s.fetchWord = wordOfBytes (s.memRead 0x200) (s.memRead 0x201) := by
  rw [State.fetchWord, h]
  rfl

/-- Settles O60: every covered state is `Paused` with `PC` at 0x200, so a TICK only clears the report, and
RESUME_REQ only sets `STATE`. -/
theorem executionStartsAt200AfterResume : Obligations.ExecutionStartsAt200AfterResume := by
  unfold Obligations.ExecutionStartsAt200AfterResume
  intro s hs
  have hstart : AtStart s := by
    rcases hs with rfl | ⟨u, font, hreset⟩ | ⟨u, image, hlen, hload⟩
    · exact .reset
    · injection hreset with hs
      exact hs ▸ .resetWith u font
    · injection hload with hs
      exact hs ▸ .loaded u image hlen
  have hnot : s.runState ≠ .running := by simp [hstart.runState]
  refine ⟨⟨_, tick_of_not_running s hnot, frame_setReport s .none⟩, s.setRunState .running, ?_, rfl, ?_,
    frame_setRunState s .running⟩
  · rw [deliver, State.resume_of_paused s hstart.runState]
  · exact (s.setRunState .running).fetchWord_of_pcReset hstart.pc

end Sys2Proof.Machine
end

section
/-! SUPPORT. Proofs about the order of a sprite byte's pixels (spec/30_encoding.md R83): the bits of a byte read by index,
what drawing rows leaves in the pixels it covers (spec/44_famD_draw.md R131, R132), and O45. -/

namespace Sys2Proof.Machine

/-! ### The bits of a byte, by index -/

theorem getElem?_spriteBits_eq_some_iff (b : Byte) (j : Nat) (bit : Bool) :
    (spriteBits b)[j]? = some bit ↔ j < 8 ∧ b.getLsbD (7 - j) = bit := by
  simp only [List.getElem?_eq_some_iff, getElem_spriteBits, exists_prop]
  rw [length_spriteBits]

/-! ### The pixels a sprite covers -/

/-- One sprite row toggles the pixel at its column `ox + j` by bit `7 - j` of the byte. -/
theorem drawBits_spriteBits_get (r ox : Nat) (b : Byte) (acc : Display × Bool) (j : Nat) (hj : j < 8) :
    (drawBits r ox (spriteBits b) acc).1.get r (ox + j) = (acc.1.get r (ox + j) ^^ b.getLsbD (7 - j)) := by
  have hlen : (spriteBits b).length ≤ 64 := by simp [length_spriteBits]
  rw [(drawBits_spec r ox (spriteBits b) acc hlen).1 j (by rwa [length_spriteBits]), getElem_spriteBits]

/-- One sprite row leaves the pixels of every other display row. -/
theorem drawBits_spriteBits_get_of_ne (r ox : Nat) (b : Byte) (acc : Display × Bool) (r' c' : Nat)
    (h : r' % 32 ≠ r % 32) : (drawBits r ox (spriteBits b) acc).1.get r' c' = acc.1.get r' c' :=
  (drawBits_spec r ox (spriteBits b) acc (by simp [length_spriteBits])).2.1 r' c' (Or.inl h)

/-- Up to 32 rows meet no display row twice, so each covered pixel is toggled once, by its own bit. -/
theorem drawRows_get (ox r : Nat) (rows : List Byte) (acc : Display × Bool) (hlen : rows.length ≤ 32)
    (i j : Nat) (hi : i < rows.length) (hj : j < 8) :
    (drawRows ox r rows acc).1.get (r + i) (ox + j) =
      (acc.1.get (r + i) (ox + j) ^^ rows[i].getLsbD (7 - j)) := by
  induction rows generalizing r i acc with
  | nil => exact absurd hi (Nat.not_lt_zero i)
  | cons b rows ih =>
    rw [List.length_cons] at hlen hi
    cases i with
    | zero =>
      have hlater : ∀ i, i < rows.length → r % 32 ≠ (r + 1 + i) % 32 := by omega
      exact (drawRows_get_of_ne ox (r + 1) rows _ r (ox + j) hlater).trans
        (drawBits_spriteBits_get r ox b acc j hj)
    | succ i =>
      have hfirst : (r + 1 + i) % 32 ≠ r % 32 := by omega
      rw [drawRows, show r + (i + 1) = r + 1 + i by omega, ih (r + 1) _ (by omega) i (by omega),
        drawBits_spriteBits_get_of_ne r ox b acc _ _ hfirst, List.getElem_cons_succ]

/-- The compositor toggles the pixel at row `oy + i`, column `ox + j` by bit `7 - j` of row `i` (R131, R132). -/
theorem compositeSprite_get (ox oy : Byte) (rows : List Byte) (d : Display) (hlen : rows.length ≤ 32)
    (i j : Nat) (hi : i < rows.length) (hj : j < 8) :
    (compositeSprite ox oy rows d).1.get (oy.toNat + i) (ox.toNat + j) =
      (d.get (oy.toNat + i) (ox.toNat + j) ^^ rows[i].getLsbD (7 - j)) :=
  drawRows_get ox.toNat oy.toNat rows (d, false) hlen i j hi hj

/-- Settles O45: element `j` of a byte's bits is bit `7 - j`, the bit by which the compositor toggles column `ox + j`. -/
theorem spriteBitsMostSignificantFirst : Obligations.SpriteBitsMostSignificantFirst := by
  unfold Obligations.SpriteBitsMostSignificantFirst
  refine ⟨fun b => ⟨length_spriteBits b, fun j hj => ?_⟩, by decide, ?_⟩
  · exact (getElem?_spriteBits_eq_some_iff b j _).mpr ⟨hj, rfl⟩
  · intro ox oy rows d hlen _ i j bit hi hbit
    obtain ⟨hj, rfl⟩ := (getElem?_spriteBits_eq_some_iff rows[i] j bit).mp hbit
    exact compositeSprite_get ox oy rows d (by omega) i j hi hj

end Sys2Proof.Machine
end

section
/-! SUPPORT. Proofs about CLS and JP (spec/40_fam0_2_control.md R90, R93): the word that decodes to CLS and the words that
decode to JP, the frames of the two updates they make, O22 and O28. -/

namespace Sys2Proof

/-! ### The words of CLS and JP -/

theorem decodeFamily0_eq_cls_iff (w : Word) : decodeFamily0 w = .cls ↔ w = 0x00E0 := by
  unfold decodeFamily0
  split_ifs with hcls hret
  · exact iff_of_true rfl hcls
  · exact iff_of_false nofun hcls
  · exact iff_of_false nofun hcls

theorem decodeFamily8_ne_cls (w : Word) : decodeFamily8 w ≠ .cls := by
  unfold decodeFamily8
  split <;> nofun

theorem decodeFamilyE_ne_cls (w : Word) : decodeFamilyE w ≠ .cls := by
  unfold decodeFamilyE
  split <;> nofun

theorem decodeFamilyF_ne_cls (w : Word) : decodeFamilyF w ≠ .cls := by
  unfold decodeFamilyF
  split <;> nofun

/-- CLS is decoded in family 0 only, and there from the whole word (R75, R90). -/
theorem decodeWord_eq_cls_iff (w : Word) : decodeWord w = .cls ↔ w = 0x00E0 := by
  constructor
  · intro h
    unfold decodeWord at h
    split at h
    -- the arms that answer from a family's own decoder: families 0, 8, E and F
    case h_1 => exact (decodeFamily0_eq_cls_iff w).mp h
    case h_9 => exact absurd h (decodeFamily8_ne_cls w)
    case h_15 => exact absurd h (decodeFamilyE_ne_cls w)
    case h_16 => exact absurd h (decodeFamilyF_ne_cls w)
    all_goals nomatch h
  · rintro rfl
    rfl

theorem fieldNnn_wordA (op : Nibble) (nnn : Addr12) : fieldNnn (wordA op nnn) = nnn := by
  apply BitVec.eq_of_toNat_eq
  have := nnn.isLt
  rw [toNat_fieldNnn, toNat_wordA]
  omega

theorem decodeWord_wordA_jp (nnn : Addr12) : decodeWord (wordA 0x1 nnn) = .jp nnn := by
  rw [decodeWord, Laws.EncodedFamily.fieldOp_wordA, fieldNnn_wordA]
  rfl

end Sys2Proof

namespace Sys2Proof.Machine

/-! ### Frames of single updates -/

/-- Setting the display leaves everything else. -/
theorem frame_setDisp (s : State) (d : Display) : Frame [] [.disp] s (s.setDisp d) := by
  refine ⟨fun z _ => s.reg_setDisp d z, fun p hp => ?_⟩
  cases p with
  | disp => exact absurd List.mem_cons_self hp
  | _ => simp [Kept]

/-- Setting `PC` leaves everything else. -/
theorem frame_setPc (s : State) (w : Word) : Frame [] [.pc] s (s.setPc w) := by
  refine ⟨fun z _ => s.reg_setPc w z, fun p hp => ?_⟩
  cases p with
  | pc => exact absurd List.mem_cons_self hp
  | _ => simp [Kept]

/-! ### CLS and JP -/

theorem exec_cls (s : State) : exec .cls s = .next (s.setDisp Display.blank) := rfl

theorem exec_jp (nnn : Addr12) (s : State) : exec (.jp nnn) s = .next (s.setPc (addrImm nnn)) := rfl

/-- An address is zero-extended to 16 bits (spec/40_fam0_2_control.md R93). -/
theorem toNat_addrImm (nnn : Addr12) : (addrImm nnn).toNat = nnn.toNat :=
  BitVec.toNat_setWidth_of_le (by decide)

/-- Settles O22: family 0 alone reads 0x00E0 as CLS, and CLS only sets the display to the blank one. -/
theorem clsTurnsAllPixelsOff : Obligations.ClsTurnsAllPixelsOff := by
  unfold Obligations.ClsTurnsAllPixelsOff
  exact ⟨decodeWord_eq_cls_iff, fun s => ⟨_, exec_cls s, Display.get_blank, frame_setDisp s Display.blank⟩⟩

/-- Settles O28: the fields of `1nnn` give JP `nnn`, and JP only sets `PC` to the zero-extended `nnn`. -/
theorem jpSetsPc : Obligations.JpSetsPc := by
  unfold Obligations.JpSetsPc
  exact ⟨decodeWord_wordA_jp, fun s nnn => ⟨_, exec_jp nnn s, toNat_addrImm nnn, frame_setPc s (addrImm nnn)⟩⟩

end Sys2Proof.Machine
end

section
/-! SUPPORT. Proofs about ADD Vx, kk (spec/41_fam3_7_skip_imm.md R104): the fields `x` and `kk` of a word of format `XK`, the
frame of a register write, and O32. -/

namespace Sys2Proof

/-! ### The words of ADD Vx, kk -/

theorem fieldX_wordXK (op : Nibble) (x : Reg) (kk : Byte) : fieldX (wordXK op x kk) = x := by
  apply BitVec.eq_of_toNat_eq
  have := x.isLt
  have := kk.isLt
  rw [toNat_fieldX, toNat_wordXK]
  omega

theorem fieldKk_wordXK (op : Nibble) (x : Reg) (kk : Byte) : fieldKk (wordXK op x kk) = kk := by
  apply BitVec.eq_of_toNat_eq
  have := kk.isLt
  rw [toNat_fieldKk, toNat_wordXK]
  omega

theorem decodeWord_wordXK_addImm (x : Reg) (kk : Byte) : decodeWord (wordXK 0x7 x kk) = .addImm x kk := by
  rw [decodeWord, Laws.EncodedFamily.fieldOp_wordXK, fieldX_wordXK, fieldKk_wordXK]
  rfl

end Sys2Proof

namespace Sys2Proof.Machine

/-! ### ADD Vx, kk -/

/-- Writing one register leaves every other register and every other part. -/
theorem frame_setReg (s : State) (x : Reg) (b : Byte) : Frame [x] [] s (s.setReg x b) := by
  refine ⟨fun z hz => ?_, fun p _ => ?_⟩
  · rw [State.reg_setReg, if_neg (mt List.mem_singleton.mpr hz)]
  · cases p <;> simp [Kept]

theorem exec_addImm (x : Reg) (kk : Byte) (s : State) :
    exec (.addImm x kk) s = .next (s.setReg x (s.reg x + kk)) := rfl

/-- The sum ADD Vx, kk leaves in `V[x]`, wrapping at 8 bits (R104). -/
theorem toNat_reg_setReg_add (s : State) (x : Reg) (kk : Byte) :
    ((s.setReg x (s.reg x + kk)).reg x).toNat = ((s.reg x).toNat + kk.toNat) % 256 := by
  rw [State.reg_setReg_self, BitVec.toNat_add]

/-- Settles O32: the fields of `7xkk` give ADD Vx, kk, and ADD only writes the wrapping 8-bit sum to `V[x]`. -/
theorem addImmWrapsWithoutFlag : Obligations.AddImmWrapsWithoutFlag := by
  unfold Obligations.AddImmWrapsWithoutFlag
  exact ⟨decodeWord_wordXK_addImm, fun s x kk =>
    ⟨_, exec_addImm x kk s, toNat_reg_setReg_add s x kk, frame_setReg s x (s.reg x + kk)⟩⟩

end Sys2Proof.Machine
end

section
/-! SUPPORT. Proofs about LD, OR, AND, XOR Vx, Vy (spec/42_fam8_alu.md R111 to R114): the fields `x`, `y` and `n` of a word of
format `XYN`, what these instructions execute to, and O33. -/

namespace Sys2Proof

/-! ### The words of family 8 -/

theorem fieldX_wordXYN (op : Nibble) (x y : Reg) (n : Nibble) : fieldX (wordXYN op x y n) = x := by
  apply BitVec.eq_of_toNat_eq
  have := x.isLt
  have := y.isLt
  have := n.isLt
  rw [toNat_fieldX, toNat_wordXYN]
  omega

theorem fieldY_wordXYN (op : Nibble) (x y : Reg) (n : Nibble) : fieldY (wordXYN op x y n) = y := by
  apply BitVec.eq_of_toNat_eq
  have := y.isLt
  have := n.isLt
  rw [toNat_fieldY, toNat_wordXYN]
  omega

theorem fieldN_wordXYN (op : Nibble) (x y : Reg) (n : Nibble) : fieldN (wordXYN op x y n) = n := by
  apply BitVec.eq_of_toNat_eq
  have := n.isLt
  rw [toNat_fieldN, toNat_wordXYN]
  omega

/-- The words `8xyn` are decoded by family 8 (R75). -/
theorem decodeWord_wordXYN_family8 (x y : Reg) (n : Nibble) :
    decodeWord (wordXYN 0x8 x y n) = decodeFamily8 (wordXYN 0x8 x y n) := by
  rw [decodeWord, Laws.EncodedFamily.fieldOp_wordXYN]
  rfl

/-- In family 8 the digits `n` from 0 to 3 are LD, OR, AND and XOR (R76). -/
theorem decodeWord_wordXYN_moveOrLogic (x y : Reg) :
    decodeWord (wordXYN 0x8 x y 0x0) = .ldReg x y ∧ decodeWord (wordXYN 0x8 x y 0x1) = .orReg x y ∧
      decodeWord (wordXYN 0x8 x y 0x2) = .andReg x y ∧ decodeWord (wordXYN 0x8 x y 0x3) = .xorReg x y := by
  simp only [decodeWord_wordXYN_family8, decodeFamily8, fieldN_wordXYN, fieldX_wordXYN, fieldY_wordXYN]
  exact ⟨rfl, rfl, rfl, rfl⟩

end Sys2Proof

namespace Sys2Proof.Machine

/-! ### LD, OR, AND, XOR Vx, Vy -/

theorem exec_ldReg (x y : Reg) (s : State) : exec (.ldReg x y) s = .next (s.setReg x (s.reg y)) := rfl

theorem exec_orReg (x y : Reg) (s : State) : exec (.orReg x y) s = .next (s.setReg x (s.reg x ||| s.reg y)) := rfl

theorem exec_andReg (x y : Reg) (s : State) : exec (.andReg x y) s = .next (s.setReg x (s.reg x &&& s.reg y)) := rfl

theorem exec_xorReg (x y : Reg) (s : State) : exec (.xorReg x y) s = .next (s.setReg x (s.reg x ^^^ s.reg y)) := rfl

/-- An instruction that is one register write leaves its result there and nothing else changed, so no flag either. -/
theorem exec_writes_only_reg {i : Instr} {s : State} {x : Reg} {b : Byte} (h : exec i s = .next (s.setReg x b)) :
    ∃ t, exec i s = .next t ∧ t.reg x = b ∧ Frame [x] [] s t :=
  ⟨s.setReg x b, h, s.reg_setReg_self x b, frame_setReg s x b⟩

/-- Settles O33: `n` from 0 to 3 selects LD, OR, AND or XOR, and each is one write of `V[x]`. -/
theorem movesAndLogicWriteOnlyVx : Obligations.MovesAndLogicWriteOnlyVx := by
  unfold Obligations.MovesAndLogicWriteOnlyVx
  exact ⟨decodeWord_wordXYN_moveOrLogic, fun s x y =>
    ⟨exec_writes_only_reg (exec_ldReg x y s), exec_writes_only_reg (exec_orReg x y s),
      exec_writes_only_reg (exec_andReg x y s), exec_writes_only_reg (exec_xorReg x y s)⟩⟩

end Sys2Proof.Machine
end

section
/-! SUPPORT. Proofs about LD I, nnn (spec/43_fam9_C_misc.md R126): the words that decode to it, the frame of the update it
makes, what any instruction leaves in `I`, and O39. -/

namespace Sys2Proof

/-! ### The words of LD I, nnn -/

theorem decodeWord_wordA_ldI (nnn : Addr12) : decodeWord (wordA 0xA nnn) = .ldI nnn := by
  rw [decodeWord, Laws.EncodedFamily.fieldOp_wordA, fieldNnn_wordA]
  rfl

end Sys2Proof

namespace Sys2Proof.Machine

/-! ### The index register -/

/-- Setting `I` leaves everything else. -/
theorem frame_setI (s : State) (w : Word) : Frame [] [.i] s (s.setI w) := by
  refine ⟨fun z _ => s.reg_setI w z, fun p hp => ?_⟩
  cases p with
  | i => exact absurd List.mem_cons_self hp
  | _ => simp [Kept]

theorem exec_ldI (nnn : Addr12) (s : State) : exec (.ldI nnn) s = .next (s.setI (addrImm nnn)) := rfl

/-- What an instruction leaves in `I` (R126, R154, R155): LD I, ADD I and LD F set it, every other one keeps it. -/
theorem exec_i_cases {i : Instr} {s t : State} (h : exec i s = .next t) :
    t.i = s.i ∨ (∃ nnn, i = .ldI nnn ∧ t.i = addrImm nnn) ∨
      (∃ x, i = .addI x ∧ t.i = s.i + s.regWide x) ∨ ∃ x, i = .ldF x ∧ t.i = s.glyphAddr x := by
  cases i with
  | ldI nnn => injection h with h; exact .inr (.inl ⟨nnn, rfl, h ▸ rfl⟩)
  | addI x => injection h with h; exact .inr (.inr (.inl ⟨x, rfl, h ▸ rfl⟩))
  | ldF x => injection h with h; exact .inr (.inr (.inr ⟨x, rfl, h ▸ rfl⟩))
  | ret => rcases execRet_cases s t h with ⟨-, rfl⟩ | ⟨-, -, rfl⟩ <;> exact .inl rfl
  | call nnn => rcases execCall_cases s t nnn h with ⟨-, rfl⟩ | ⟨-, -, rfl⟩ <;> exact .inl rfl
  | ldB | store => injection h with h; subst h; exact .inl (s.writeData_i ..)
  | load => injection h with h; subst h; exact .inl (s.setRegBlock_i ..)
  | seImm | sneImm | seReg | sneReg | skp | sknp =>
    injection h with h; subst h; rw [State.skipIf_eq]; exact .inl rfl
  | _ => injection h with h; subst h; exact .inl rfl

/-- Settles O39: the fields of `Annn` give LD I, nnn, which only sets `I` to the zero-extended `nnn`; of the three
instructions that set `I`, LD I reaches no further than the 12 bits of `nnn`. -/
theorem ldISetsIndex : Obligations.LdISetsIndex := by
  unfold Obligations.LdISetsIndex
  refine ⟨decodeWord_wordA_ldI, fun s nnn => ⟨_, exec_ldI nnn s, toNat_addrImm nnn, frame_setI s (addrImm nnn)⟩, ?_⟩
  intro i s t h hs ht
  rcases exec_i_cases h with hi | ⟨nnn, -, hi⟩ | ⟨x, rfl, -⟩ | ⟨x, rfl, -⟩
  · rw [hi] at ht
    omega
  · have hnnn := nnn.isLt
    rw [hi, toNat_addrImm] at ht
    omega
  · exact .inl ⟨x, rfl⟩
  · exact .inr ⟨x, rfl⟩

end Sys2Proof.Machine
end

section
/-! SUPPORT. Proofs about LD DT, Vx and LD ST, Vx (spec/46_famF_misc.md R152, R153): the words of family F, the frames of the
two timer writes, the step that runs a fetched instruction, what any instruction does with another `ST`, and O48. -/

namespace Sys2Proof

/-! ### The words of family F -/

/-- The words `Fxkk` are decoded by family F (R75). -/
theorem decodeWord_wordXK_familyF (x : Reg) (kk : Byte) :
    decodeWord (wordXK 0xF x kk) = decodeFamilyF (wordXK 0xF x kk) := by
  rw [decodeWord, Laws.EncodedFamily.fieldOp_wordXK]
  rfl

/-- In family F the bytes 15 and 18 load the timers (R76). -/
theorem decodeWord_wordXK_timerLoads (x : Reg) :
    decodeWord (wordXK 0xF x 0x15) = .ldDtVx x ∧ decodeWord (wordXK 0xF x 0x18) = .ldStVx x := by
  simp only [decodeWord_wordXK_familyF, decodeFamilyF, fieldKk_wordXK, fieldX_wordXK]
  exact ⟨rfl, rfl⟩

end Sys2Proof

namespace Sys2Proof.Machine

/-! ### The timer writes -/

/-- Setting `DT` leaves everything else. -/
theorem frame_setDt (s : State) (b : Byte) : Frame [] [.dt] s (s.setDt b) := by
  refine ⟨fun z _ => s.reg_setDt b z, fun p hp => ?_⟩
  cases p with
  | dt => exact absurd List.mem_cons_self hp
  | _ => simp [Kept]

/-- Setting `ST` leaves everything else. -/
theorem frame_setSt (s : State) (b : Byte) : Frame [] [.st] s (s.setSt b) := by
  refine ⟨fun z _ => s.reg_setSt b z, fun p hp => ?_⟩
  cases p with
  | st => exact absurd List.mem_cons_self hp
  | _ => simp [Kept]

theorem exec_ldDtVx (x : Reg) (s : State) : exec (.ldDtVx x) s = .next (s.setDt (s.reg x)) := rfl

theorem exec_ldStVx (x : Reg) (s : State) : exec (.ldStVx x) s = .next (s.setSt (s.reg x)) := rfl

/-! ### The step that runs the fetched instruction -/

/-- A TICK taken in `Running` executes the fetched instruction after the decrement and the fetch advance (R171). -/
theorem step_of_tick_running {s : State} (hrun : s.runState = .running) (htick : s.nextEvent = .tick) :
    step s = exec (decodeWord s.fetchWord) s.takeEvent.beforeExecute := by
  rw [step_of_tick s htick, tick_of_running s.takeEvent hrun, State.fetchWord_takeEvent]

/-! ### Another `ST` before an instruction (R153) -/

theorem State.writeData_setSt (s : State) (b : Byte) (k : Nat) (bs : List Byte) :
    (s.setSt b).writeData k bs = (s.writeData k bs).setSt b := by
  induction bs generalizing s k with
  | nil => rfl
  | cons c bs ih => exact ih (s.memWrite (s.dataAddr k) c) (k + 1)

theorem State.setRegBlock_setSt (s : State) (b : Byte) (k : Nat) (bs : List Byte) :
    (s.setSt b).setRegBlock k bs = (s.setRegBlock k bs).setSt b := by
  induction bs generalizing s k with
  | nil => rfl
  | cons c bs ih => exact ih (s.setReg (BitVec.ofNat 4 k) c) (k + 1)

theorem State.skipIf_setSt (s : State) (b : Byte) (c : Bool) : (s.setSt b).skipIf c = (s.skipIf c).setSt b := by
  cases c <;> rfl

/-- With another `ST` before it an instruction leaves the same state with that `ST`; LD ST, Vx overwrites it. -/
theorem exec_setSt_cases {i : Instr} {s t : State} (h : exec i s = .next t) (b : Byte) :
    exec i (s.setSt b) = .next (t.setSt b) ∨ ∃ x, i = .ldStVx x ∧ exec i (s.setSt b) = .next t := by
  cases i with
  | ldStVx x => injection h with h; subst h; exact .inr ⟨x, rfl, rfl⟩
  | ret =>
    refine .inl ?_
    rcases execRet_cases s t h with ⟨hsp, rfl⟩ | ⟨hsp, hle, rfl⟩
    · exact execRet_of_empty (s.setSt b) hsp
    · exact execRet_of_live (s.setSt b) hsp hle
  | call nnn =>
    refine .inl ?_
    rcases execCall_cases s t nnn h with ⟨hsp, rfl⟩ | ⟨hsp, hle, rfl⟩
    · exact execCall_of_full (s.setSt b) nnn hsp
    · exact execCall_of_room (s.setSt b) nnn hsp hle
  | ldB | store => injection h with h; subst h; exact .inl (congrArg _ (s.writeData_setSt b 0 _))
  | load => injection h with h; subst h; exact .inl (congrArg _ (s.setRegBlock_setSt b 0 _))
  | seImm | sneImm | seReg | sneReg | skp | sknp =>
    injection h with h; subst h; exact .inl (congrArg _ (s.skipIf_setSt b _))
  | _ => injection h with h; subst h; exact .inl rfl

/-- Settles O48: the load comes after its TICK's decrement, so the next TICK's is the first; what an instruction leaves
differs from the original run in `ST` alone. -/
theorem timerLoadsAreNotDecremented : Obligations.TimerLoadsAreNotDecremented := by
  unfold Obligations.TimerLoadsAreNotDecremented
  refine ⟨decodeWord_wordXK_timerLoads, fun s x => ⟨?_, ?_⟩, ?_, ?_, ?_⟩
  · exact ⟨_, exec_ldDtVx x s, rfl, frame_setDt s (s.reg x)⟩
  · exact ⟨_, exec_ldStVx x s, rfl, frame_setSt s (s.reg x)⟩
  · intro s x hrun htick hword
    rw [step_of_tick_running hrun htick, hword]
    exact ⟨_, exec_ldDtVx x _, rfl, countDown_toNat (s.reg x)⟩
  · intro s x hrun htick hword
    rw [step_of_tick_running hrun htick, hword]
    exact ⟨_, exec_ldStVx x _, rfl, countDown_toNat (s.reg x)⟩
  · intro i s t b h
    rcases exec_setSt_cases h b with hother | ⟨x, -, hload⟩
    · exact ⟨_, hother, rfl⟩
    · exact ⟨_, hload, rfl⟩

end Sys2Proof.Machine
end

section
/-! SUPPORT. Proofs about LD Vx, K (spec/46_famF_misc.md R151): the word that decodes to it, TICK and KEY_DOWN in the wait,
and O49. -/

namespace Sys2Proof

/-- In family F the byte 0A is LD Vx, K (R76). -/
theorem decodeWord_wordXK_ldVxK (x : Reg) : decodeWord (wordXK 0xF x 0x0A) = .ldVxK x := by
  rw [decodeWord_wordXK_familyF, decodeFamilyF, fieldKk_wordXK, fieldX_wordXK]
  rfl

end Sys2Proof

namespace Sys2Proof.Machine

/-! ### The key wait -/

theorem exec_ldVxK (x : Reg) (s : State) : exec (.ldVxK x) s = .next (s.setRunState (.waitingForKey x)) := rfl

/-- A TICK in the wait only clears the report output (spec/60_exceptions.md R171, R173). -/
theorem deliver_tick_of_waiting {s : State} {r : Reg} (h : s.runState = .waitingForKey r) :
    deliver .tick s = .next (s.setReport .none) :=
  tick_of_not_running s (by simp [h])

/-- KEY_DOWN in the wait sets the key's flag, writes its code and resumes (spec/60_exceptions.md R182). -/
theorem deliver_keyDown_of_waiting {s : State} {r : Reg} (h : s.runState = .waitingForKey r) (k : Nibble) :
    deliver (.keyDown k) s = .next (((s.setKey k true).setReg r (k.setWidth 8)).setRunState .running) := by
  rw [deliver, State.keyDown, h]

/-- Settles O49: LD Vx, K only sets `STATE`; in the wait a TICK only clears the report, and KEY_DOWN writes the code,
zero-extended, to the register the wait names. -/
theorem ldVxKEntersKeyWait : Obligations.LdVxKEntersKeyWait := by
  unfold Obligations.LdVxKEntersKeyWait
  refine ⟨decodeWord_wordXK_ldVxK, fun s x => ?_⟩
  have hwait : (s.setRunState (.waitingForKey x)).runState = .waitingForKey x := s.setRunState_runState _
  refine ⟨_, exec_ldVxK x s, hwait, frame_setRunState s _, ?_, fun k => ?_⟩
  · exact ⟨_, deliver_tick_of_waiting hwait, frame_setReport _ .none⟩
  · refine ⟨_, deliver_keyDown_of_waiting hwait k, ?_, rfl, rfl⟩
    rw [State.reg_setRunState, State.reg_setReg_self, BitVec.toNat_setWidth_of_le (by decide)]

end Sys2Proof.Machine
end

section
/-! SUPPORT. Proofs about the decoder and the encoder (spec/30_encoding.md R70 to R82): which instruction a family reads a
word as, the words of the formats put together from their fields, O1, O2, O3 and O4. -/

namespace Sys2Proof

/-! ### The families with a discriminator: effect rows and no-op rows (R75, R79, R82) -/

theorem decodeFamily0_of_noOp {w : Word} (hcls : w ≠ 0x00E0) (hret : w ≠ 0x00EE) :
    decodeFamily0 w = .nop0 (fieldNnn w) := by
  rw [decodeFamily0, if_neg hcls, if_neg hret]

theorem decodeFamily8_of_noOp {w : Word} (h : fieldN w ∉ family8Effects) :
    decodeFamily8 w = .nop8 (fieldX w) (fieldY w) (fieldN w) := by
  unfold decodeFamily8
  split
  case h_10 => rfl
  all_goals exact absurd (by simp [family8Effects, ← BitVec.toNat_inj, *]) h

theorem decodeFamilyE_of_noOp {w : Word} (h : fieldKk w ∉ familyEEffects) :
    decodeFamilyE w = .nope (fieldX w) (fieldKk w) := by
  unfold decodeFamilyE
  split
  case h_3 => rfl
  all_goals exact absurd (by simp [familyEEffects, ← BitVec.toNat_inj, *]) h

theorem decodeFamilyF_of_noOp {w : Word} (h : fieldKk w ∉ familyFEffects) :
    decodeFamilyF w = .nopf (fieldX w) (fieldKk w) := by
  unfold decodeFamilyF
  split
  case h_10 => rfl
  all_goals exact absurd (by simp [familyFEffects, ← BitVec.toNat_inj, *]) h

/-- The effect rows of family 8: no no-op, well formed, and encoded from the word's own fields. -/
theorem decodeFamily8_of_effect {w : Word} (h : fieldN w ∈ family8Effects) :
    (decodeFamily8 w).isNoOp = false ∧ (decodeFamily8 w).WellFormed ∧
      encode (decodeFamily8 w) = wordXYN 0x8 (fieldX w) (fieldY w) (fieldN w) := by
  simp only [family8Effects, List.mem_cons, List.not_mem_nil, or_false] at h
  rcases h with h | h | h | h | h | h | h | h | h <;> (rw [decodeFamily8, h]; exact ⟨rfl, rfl, rfl⟩)

/-- The effect rows of family E: no no-op, well formed, and encoded from the word's own fields. -/
theorem decodeFamilyE_of_effect {w : Word} (h : fieldKk w ∈ familyEEffects) :
    (decodeFamilyE w).isNoOp = false ∧ (decodeFamilyE w).WellFormed ∧
      encode (decodeFamilyE w) = wordXK 0xE (fieldX w) (fieldKk w) := by
  simp only [familyEEffects, List.mem_cons, List.not_mem_nil, or_false] at h
  rcases h with h | h <;> (rw [decodeFamilyE, h]; exact ⟨rfl, rfl, rfl⟩)

/-- The effect rows of family F: no no-op, well formed, and encoded from the word's own fields. -/
theorem decodeFamilyF_of_effect {w : Word} (h : fieldKk w ∈ familyFEffects) :
    (decodeFamilyF w).isNoOp = false ∧ (decodeFamilyF w).WellFormed ∧
      encode (decodeFamilyF w) = wordXK 0xF (fieldX w) (fieldKk w) := by
  simp only [familyFEffects, List.mem_cons, List.not_mem_nil, or_false] at h
  rcases h with h | h | h | h | h | h | h | h | h <;> (rw [decodeFamilyF, h]; exact ⟨rfl, rfl, rfl⟩)

/-- The words `0nnn` are decoded by family 0 (R75). -/
theorem decodeWord_wordA_family0 (nnn : Addr12) : decodeWord (wordA 0x0 nnn) = decodeFamily0 (wordA 0x0 nnn) := by
  rw [decodeWord, Laws.EncodedFamily.fieldOp_wordA]
  rfl

/-- The words `Exkk` are decoded by family E (R75). -/
theorem decodeWord_wordXK_familyE (x : Reg) (kk : Byte) :
    decodeWord (wordXK 0xE x kk) = decodeFamilyE (wordXK 0xE x kk) := by
  rw [decodeWord, Laws.EncodedFamily.fieldOp_wordXK]
  rfl

/-! ### Decoding an encoded instruction -/

theorem wordA_injective (op : Nibble) {nnn nnn' : Addr12} (h : wordA op nnn = wordA op nnn') : nnn = nnn' := by
  rw [← fieldNnn_wordA op nnn, h, fieldNnn_wordA]

/-- The decoder reads the fields the encoder wrote; a well-formed no-op carries no effect row's discriminator. -/
theorem decodeWord_encode (i : Instr) (h : i.WellFormed) : decodeWord (encode i) = i := by
  cases i with
  | cls | ret => rfl
  | nop0 nnn =>
    simp only [Instr.WellFormed, Instr.wf, Bool.and_eq_true, bne_iff_ne] at h
    obtain ⟨hcls, hret⟩ := h
    rw [encode, decodeWord_wordA_family0,
      decodeFamily0_of_noOp (mt (wordA_injective 0x0 (nnn' := 0x0E0)) hcls)
        (mt (wordA_injective 0x0 (nnn' := 0x0EE)) hret), fieldNnn_wordA]
  | jp | call | ldI | jpV0 =>
    simp only [encode, decodeWord, Laws.EncodedFamily.fieldOp_wordA, fieldNnn_wordA]
    rfl
  | seImm | sneImm | ldImm | addImm | rnd =>
    simp only [encode, decodeWord, Laws.EncodedFamily.fieldOp_wordXK, fieldX_wordXK, fieldKk_wordXK]
    rfl
  | seReg | sneReg | drw =>
    simp only [encode, decodeWord, Laws.EncodedFamily.fieldOp_wordXYN, fieldX_wordXYN, fieldY_wordXYN, fieldN_wordXYN]
    rfl
  | ldReg | orReg | andReg | xorReg | addReg | sub | shr | subn | shl =>
    simp only [encode, decodeWord_wordXYN_family8, decodeFamily8, fieldX_wordXYN, fieldY_wordXYN, fieldN_wordXYN]
    rfl
  | nop8 ignX ignY n =>
    have hn : n ∉ family8Effects := by simpa [Instr.WellFormed, Instr.wf] using h
    rw [encode, decodeWord_wordXYN_family8, decodeFamily8_of_noOp (by rwa [fieldN_wordXYN]), fieldX_wordXYN,
      fieldY_wordXYN, fieldN_wordXYN]
  | skp | sknp =>
    simp only [encode, decodeWord_wordXK_familyE, decodeFamilyE, fieldX_wordXK, fieldKk_wordXK]
    rfl
  | nope ignX kk =>
    have hkk : kk ∉ familyEEffects := by simpa [Instr.WellFormed, Instr.wf] using h
    rw [encode, decodeWord_wordXK_familyE, decodeFamilyE_of_noOp (by rwa [fieldKk_wordXK]), fieldX_wordXK,
      fieldKk_wordXK]
  | ldVxDt | ldVxK | ldDtVx | ldStVx | addI | ldF | ldB | store | load =>
    simp only [encode, decodeWord_wordXK_familyF, decodeFamilyF, fieldX_wordXK, fieldKk_wordXK]
    rfl
  | nopf ignX kk =>
    have hkk : kk ∉ familyFEffects := by simpa [Instr.WellFormed, Instr.wf] using h
    rw [encode, decodeWord_wordXK_familyF, decodeFamilyF_of_noOp (by rwa [fieldKk_wordXK]), fieldX_wordXK,
      fieldKk_wordXK]

/-- A word's two bytes decode to the word's instruction, whatever follows (R70, R71). -/
theorem decode_bytesOfWord_append (w : Word) (rest : List Byte) :
    decode (bytesOfWord w ++ rest) = .ok (decodeWord w, rest) :=
  congrArg (fun v => Except.ok (decodeWord v, rest)) (wordOfBytes_bytes w)

/-- Settles O1: the two bytes of a word join to the word, and the decoder reads the fields the encoder wrote. -/
theorem decodeInvertsEncode : Obligations.DecodeInvertsEncode := by
  unfold Obligations.DecodeInvertsEncode
  intro i rest h
  rw [decode_bytesOfWord_append, decodeWord_encode i h]

/-! ### Encoding a decoded word -/

/-- The field `op` by its number. -/
theorem fieldOp_eq_ofNat {w : Word} {k : Nat} (h : (fieldOp w).toNat = k) : fieldOp w = BitVec.ofNat 4 k := by
  rw [← h, BitVec.ofNat_toNat, BitVec.setWidth_eq]

/-- A word is its fields in format `A` (R73). -/
theorem wordA_fields {w : Word} {op : Nibble} (hop : fieldOp w = op) : wordA op (fieldNnn w) = w := by
  apply BitVec.eq_of_toNat_eq
  rw [toNat_wordA, ← hop, toNat_fieldOp, toNat_fieldNnn]
  omega

/-- A word is its fields in format `XK` (R73). -/
theorem wordXK_fields {w : Word} {op : Nibble} (hop : fieldOp w = op) : wordXK op (fieldX w) (fieldKk w) = w := by
  apply BitVec.eq_of_toNat_eq
  rw [toNat_wordXK, ← hop, toNat_fieldOp, toNat_fieldX, toNat_fieldKk]
  omega

/-- A word is its fields in format `XYN` (R73). -/
theorem wordXYN_fields {w : Word} {op : Nibble} (hop : fieldOp w = op) :
    wordXYN op (fieldX w) (fieldY w) (fieldN w) = w := by
  apply BitVec.eq_of_toNat_eq
  rw [toNat_wordXYN, ← hop, toNat_fieldOp, toNat_fieldX, toNat_fieldY, toNat_fieldN]
  omega

/-- The instruction is well formed and its word is `w`. -/
def Represents (i : Instr) (w : Word) : Prop := i.WellFormed ∧ encode i = w

theorem decodeFamily0_represents {w : Word} (hop : fieldOp w = 0x0) : Represents (decodeFamily0 w) w := by
  by_cases hcls : w = 0x00E0
  · subst hcls
    exact ⟨rfl, rfl⟩
  by_cases hret : w = 0x00EE
  · subst hret
    exact ⟨rfl, rfl⟩
  have hw := wordA_fields hop
  rw [decodeFamily0_of_noOp hcls hret]
  refine ⟨?_, hw⟩
  simp only [Instr.WellFormed, Instr.wf, Bool.and_eq_true, bne_iff_ne]
  exact ⟨fun h => hcls (by rw [← hw, h]; rfl), fun h => hret (by rw [← hw, h]; rfl)⟩

theorem decodeFamily8_represents {w : Word} (hop : fieldOp w = 0x8) : Represents (decodeFamily8 w) w := by
  by_cases hn : fieldN w ∈ family8Effects
  · obtain ⟨-, hwf, henc⟩ := decodeFamily8_of_effect hn
    exact ⟨hwf, henc.trans (wordXYN_fields hop)⟩
  · rw [decodeFamily8_of_noOp hn]
    exact ⟨by simpa [Instr.WellFormed, Instr.wf] using hn, wordXYN_fields hop⟩

theorem decodeFamilyE_represents {w : Word} (hop : fieldOp w = 0xE) : Represents (decodeFamilyE w) w := by
  by_cases hkk : fieldKk w ∈ familyEEffects
  · obtain ⟨-, hwf, henc⟩ := decodeFamilyE_of_effect hkk
    exact ⟨hwf, henc.trans (wordXK_fields hop)⟩
  · rw [decodeFamilyE_of_noOp hkk]
    exact ⟨by simpa [Instr.WellFormed, Instr.wf] using hkk, wordXK_fields hop⟩

theorem decodeFamilyF_represents {w : Word} (hop : fieldOp w = 0xF) : Represents (decodeFamilyF w) w := by
  by_cases hkk : fieldKk w ∈ familyFEffects
  · obtain ⟨-, hwf, henc⟩ := decodeFamilyF_of_effect hkk
    exact ⟨hwf, henc.trans (wordXK_fields hop)⟩
  · rw [decodeFamilyF_of_noOp hkk]
    exact ⟨by simpa [Instr.WellFormed, Instr.wf] using hkk, wordXK_fields hop⟩

/-- A nibble that is none of 0 to 14 is 15. -/
theorem nibble_eq_fifteen {n : Nibble} (h : ∀ k < 15, n.toNat ≠ k) : n = 0xF := by
  have := n.isLt
  have : ¬n.toNat < 15 := fun hlt => h _ hlt rfl
  exact BitVec.eq_of_toNat_eq (by rw [show (0xF : Nibble).toNat = 15 from rfl]; omega)

/-- The decoder reads each family's word in the format the encoder writes it in. -/
theorem decodeWord_represents (w : Word) : Represents (decodeWord w) w := by
  unfold decodeWord
  split
  case h_1 h => exact decodeFamily0_represents (fieldOp_eq_ofNat h)
  case h_9 h => exact decodeFamily8_represents (fieldOp_eq_ofNat h)
  case h_15 h => exact decodeFamilyE_represents (fieldOp_eq_ofNat h)
  case h_16 =>
    refine decodeFamilyF_represents (nibble_eq_fifteen fun k hk => ?_)
    interval_cases k <;> assumption
  case h_2 h | h_3 h | h_11 h | h_12 h => exact ⟨rfl, wordA_fields (fieldOp_eq_ofNat h)⟩
  case h_6 h | h_10 h | h_14 h => exact ⟨rfl, wordXYN_fields (fieldOp_eq_ofNat h)⟩
  case h_4 h | h_5 h | h_7 h | h_8 h | h_13 h => exact ⟨rfl, wordXK_fields (fieldOp_eq_ofNat h)⟩

/-- Settles O2: in every family the decoded term carries all of the word's fields, and a no-op term no effect row's
discriminator. -/
theorem encodeInvertsDecode : Obligations.EncodeInvertsDecode := by
  unfold Obligations.EncodeInvertsDecode
  exact decodeWord_represents

/-! ### The no-op words (R79) -/

theorem isNoOp_decodeFamily0 (w : Word) : (decodeFamily0 w).isNoOp = true ↔ w ≠ 0x00E0 ∧ w ≠ 0x00EE := by
  unfold decodeFamily0
  split_ifs with hcls hret
  · exact iff_of_false nofun fun h => h.1 hcls
  · exact iff_of_false nofun fun h => h.2 hret
  · exact iff_of_true rfl ⟨hcls, hret⟩

theorem isNoOp_decodeFamily8 (w : Word) : (decodeFamily8 w).isNoOp = true ↔ fieldN w ∉ family8Effects := by
  by_cases hn : fieldN w ∈ family8Effects
  · exact iff_of_false (Bool.eq_false_iff.mp (decodeFamily8_of_effect hn).1) (not_not_intro hn)
  · exact iff_of_true (decodeFamily8_of_noOp hn ▸ rfl) hn

theorem isNoOp_decodeFamilyE (w : Word) : (decodeFamilyE w).isNoOp = true ↔ fieldKk w ∉ familyEEffects := by
  by_cases hkk : fieldKk w ∈ familyEEffects
  · exact iff_of_false (Bool.eq_false_iff.mp (decodeFamilyE_of_effect hkk).1) (not_not_intro hkk)
  · exact iff_of_true (decodeFamilyE_of_noOp hkk ▸ rfl) hkk

theorem isNoOp_decodeFamilyF (w : Word) : (decodeFamilyF w).isNoOp = true ↔ fieldKk w ∉ familyFEffects := by
  by_cases hkk : fieldKk w ∈ familyFEffects
  · exact iff_of_false (Bool.eq_false_iff.mp (decodeFamilyF_of_effect hkk).1) (not_not_intro hkk)
  · exact iff_of_true (decodeFamilyF_of_noOp hkk ▸ rfl) hkk

/-- The digits of family 8 without an effect, by their numbers (R79 (b)). -/
theorem not_mem_family8Effects_iff :
    ∀ n : Nibble, n ∉ family8Effects ↔ n.toNat ∈ [0x8, 0x9, 0xA, 0xB, 0xC, 0xD, 0xF] := by decide

/-- Settles O3: only families 0, 8, E and F hold no-op rows, each by its own discriminator. -/
theorem noOpWordsAreExactlyListed : Obligations.NoOpWordsAreExactlyListed := by
  unfold Obligations.NoOpWordsAreExactlyListed
  intro w
  rw [← toNat_fieldOp, ← toNat_fieldN, ← toNat_fieldKk]
  unfold decodeWord
  split
  case h_1 h => rw [isNoOp_decodeFamily0, h]; simp [← BitVec.toNat_inj]
  case h_9 h => rw [isNoOp_decodeFamily8, not_mem_family8Effects_iff, h]; simp
  case h_15 h => rw [isNoOp_decodeFamilyE, h]; simp [familyEEffects, ← BitVec.toNat_inj]
  case h_16 =>
    have h : fieldOp w = 0xF := nibble_eq_fifteen fun k hk => by interval_cases k <;> assumption
    rw [isNoOp_decodeFamilyF, h]
    simp [familyFEffects, ← BitVec.toNat_inj]
  all_goals rename_i h; rw [h]; simp [Instr.isNoOp]

/-! ### Example words -/

/-- Settles O4: each word is decoded as it stands. -/
theorem exampleWordsDecode : Obligations.ExampleWordsDecode := by
  unfold Obligations.ExampleWordsDecode
  decide

end Sys2Proof
end

section
/-! SUPPORT. Proofs about frames (spec/10_state.md R21 to R32, 20_memory.md R57): frames composed and widened, the frames of the
remaining updates, the frame of every instruction, and O15, O16 and O20. -/

namespace Sys2Proof.Machine

/-! ### Frames composed and widened -/

theorem Kept.refl (p : Part) (s : State) : Kept p s s := by
  cases p <;> simp [Kept]

theorem Kept.trans {p : Part} {s t u : State} (h : Kept p s t) (h' : Kept p t u) : Kept p s u := by
  cases p with
  | stack | key | mem => exact fun k => (h' k).trans (h k)
  | disp => exact fun r c => (h' r c).trans (h r c)
  | _ => exact Eq.trans h' h

theorem Frame.refl (s : State) : Frame [] [] s s := ⟨fun _ _ => rfl, fun p _ => Kept.refl p s⟩

/-- What two updates in a row leave is what both leave. -/
theorem Frame.trans {regs regs' : List Reg} {parts parts' : List Part} {s t u : State} (h : Frame regs parts s t)
    (h' : Frame regs' parts' t u) : Frame (regs ++ regs') (parts ++ parts') s u := by
  refine ⟨fun z hz => ?_, fun p hp => ?_⟩
  · rw [List.mem_append, not_or] at hz
    exact (h'.1 z hz.2).trans (h.1 z hz.1)
  · rw [List.mem_append, not_or] at hp
    exact (h.2 p hp.1).trans (h'.2 p hp.2)

/-- A frame may name more than changes. -/
theorem Frame.mono {regs regs' : List Reg} {parts parts' : List Part} {s t : State} (h : Frame regs parts s t)
    (hregs : regs ⊆ regs') (hparts : parts ⊆ parts') : Frame regs' parts' s t :=
  ⟨fun z hz => h.1 z fun hm => hz (hregs hm), fun p hp => h.2 p fun hm => hp (hparts hm)⟩

/-! ### Frames of single updates -/

/-- Setting `SP` leaves everything else. -/
theorem frame_setSp (s : State) (n : Byte) : Frame [] [.sp] s (s.setSp n) := by
  refine ⟨fun z _ => s.reg_setSp n z, fun p hp => ?_⟩
  cases p with
  | sp => exact absurd List.mem_cons_self hp
  | _ => simp [Kept]

/-- Setting a stack slot leaves everything but the stack. -/
theorem frame_setSlot (s : State) (k : Nibble) (w : Word) : Frame [] [.stack] s (s.setSlot k w) := by
  refine ⟨fun z _ => s.reg_setSlot k w z, fun p hp => ?_⟩
  cases p with
  | stack => exact absurd List.mem_cons_self hp
  | _ => simp [Kept]

/-- Setting a key flag leaves everything but the key flags. -/
theorem frame_setKey (s : State) (k : Nibble) (f : Bool) : Frame [] [.key] s (s.setKey k f) := by
  refine ⟨fun z _ => s.reg_setKey k f z, fun p hp => ?_⟩
  cases p with
  | key => exact absurd List.mem_cons_self hp
  | _ => simp [Kept]

/-- Counting a draw leaves everything else. -/
theorem frame_setDraws (s : State) (n : Nat) : Frame [] [.draws] s (s.setDraws n) := by
  refine ⟨fun z _ => s.reg_setDraws n z, fun p hp => ?_⟩
  cases p with
  | draws => exact absurd List.mem_cons_self hp
  | _ => simp [Kept]

/-- A memory write leaves everything but memory. -/
theorem frame_memWrite (s : State) (addr : Nat) (b : Byte) : Frame [] [.mem] s (s.memWrite addr b) := by
  refine ⟨fun z _ => s.reg_memWrite addr b z, fun p hp => ?_⟩
  cases p with
  | mem => exact absurd List.mem_cons_self hp
  | _ => simp [Kept]

/-- A data store leaves everything but memory. -/
theorem frame_writeData (s : State) (k : Nat) (bs : List Byte) : Frame [] [.mem] s (s.writeData k bs) := by
  refine ⟨fun z _ => s.reg_writeData k bs z, fun p hp => ?_⟩
  cases p with
  | mem => exact absurd List.mem_cons_self hp
  | _ => simp [Kept]

/-- A skip changes at most `PC`. -/
theorem frame_skipIf (s : State) (c : Bool) : Frame [] [.pc] s (s.skipIf c) :=
  s.skipIf_eq c ▸ frame_setPc s _

/-- A fault entry changes only `STATE` and the report (spec/60_exceptions.md R176). -/
theorem frame_raise (s : State) (f : Report) : Frame [] [.runState, .report] s (s.raise f) :=
  ((frame_setReport s f).trans (frame_setRunState _ .paused)).mono (List.Subset.refl _) (by simp)

/-- A pop changes only `SP` and `PC`, the popped slot keeping its value (D4). -/
theorem frame_pop (s : State) : Frame [] [.sp, .pc] s s.pop :=
  (frame_setSp s _).trans (frame_setPc _ _)

/-- A push and a jump change only `PC`, `SP` and the stack. -/
theorem frame_push_setPc (s : State) (w : Word) : Frame [] [.pc, .sp, .stack] s (s.push.setPc w) :=
  (((frame_setSlot s _ _).trans (frame_setSp _ _)).trans (frame_setPc _ w)).mono (List.Subset.refl _) (by simp)

/-- A result and a flag written leave everything but their two registers. -/
theorem frame_setReg_setFlag (s : State) (x : Reg) (b : Byte) (f : Bool) :
    Frame [x, Config.flagReg] [] s ((s.setReg x b).setFlag f) :=
  (frame_setReg s x b).trans (frame_setReg _ Config.flagReg _)

theorem mem_blockRegs_iff (x z : Reg) : z ∈ blockRegs x ↔ z.toNat ≤ x.toNat := by
  simp only [blockRegs, List.mem_map, List.mem_range, blockLength, Nat.lt_succ_iff]
  constructor
  · rintro ⟨k, hk, rfl⟩
    exact (Nat.mod_le k 16).trans hk
  · intro h
    exact ⟨z.toNat, h, by simp⟩

/-- A register after a block load of `V[0..x]` (spec/46_famF_misc.md R158). -/
theorem State.reg_setRegBlock_readData (s : State) (x z : Reg) :
    (s.setRegBlock 0 (s.readData (blockLength x))).reg z =
      if z.toNat ≤ x.toNat then s.memRead (s.dataAddr z.toNat) else s.reg z := by
  rw [State.reg_setRegBlock _ _ _ (by simpa using blockLength_le x), State.length_readData, Nat.zero_add, Nat.sub_zero]
  by_cases h : z.toNat ≤ x.toNat
  · have hlt : z.toNat < blockLength x := Nat.lt_succ_of_le h
    rw [if_pos ⟨Nat.zero_le _, hlt⟩, if_pos h, List.getD_eq_getElem?_getD, State.getElem?_readData s _ _ hlt]
    rfl
  · rw [if_neg fun hc => h (Nat.le_of_lt_succ hc.2), if_neg h]

/-- A block load leaves everything but `V[0..x]`. -/
theorem frame_load (s : State) (x : Reg) :
    Frame (blockRegs x) [] s (s.setRegBlock 0 (s.readData (blockLength x))) := by
  refine ⟨fun z hz => ?_, fun p _ => ?_⟩
  · rw [State.reg_setRegBlock_readData, if_neg (mt (mem_blockRegs_iff x z).mpr hz)]
  · cases p <;> simp [Kept]

/-! ### The frame of every instruction -/

/-- What exec changes lies in the instruction's destinations: the frame of each meaning's updates. -/
theorem exec_frame {i : Instr} {s t : State} (h : exec i s = .next t) : Frame (destRegs i) (destParts i) s t := by
  cases i with
  | ret =>
    rcases execRet_cases s t h with ⟨-, rfl⟩ | ⟨-, -, rfl⟩
    · exact (frame_raise s _).mono (List.Subset.refl _) (by simp [destParts])
    · exact (frame_pop s).mono (List.Subset.refl _) (by simp [destParts])
  | call nnn =>
    rcases execCall_cases s t nnn h with ⟨-, rfl⟩ | ⟨-, -, rfl⟩
    · exact (frame_raise s _).mono (List.Subset.refl _) (by simp [destParts])
    · exact (frame_push_setPc s _).mono (List.Subset.refl _) (by simp [destParts])
  | cls => injection h with h; subst h; exact frame_setDisp s _
  | jp | jpV0 => injection h with h; subst h; exact frame_setPc s _
  | seImm | sneImm | seReg | sneReg | skp | sknp => injection h with h; subst h; exact frame_skipIf s _
  | ldImm | addImm | ldReg | orReg | andReg | xorReg | ldVxDt => injection h with h; subst h; exact frame_setReg s _ _
  | addReg | sub | subn | shl => injection h with h; subst h; exact frame_setReg_setFlag s _ _ _
  | shr x =>
    injection h with h
    subst h
    exact ((frame_setReg s Config.flagReg _).trans (frame_setReg _ x _)).mono (by simp [destRegs])
      (List.Subset.refl _)
  | ldI | addI | ldF => injection h with h; subst h; exact frame_setI s _
  | rnd x => injection h with h; subst h; exact (frame_setDraws s _).trans (frame_setReg _ x _)
  | drw => injection h with h; subst h; exact (frame_setDisp s _).trans (frame_setReg _ Config.flagReg _)
  | ldVxK => injection h with h; subst h; exact frame_setRunState s _
  | ldDtVx => injection h with h; subst h; exact frame_setDt s _
  | ldStVx => injection h with h; subst h; exact frame_setSt s _
  | ldB | store => injection h with h; subst h; exact frame_writeData s _ _
  | load x => injection h with h; subst h; exact frame_load s x
  | nop0 | nop8 | nope | nopf => injection h with h; subst h; exact Frame.refl s

/-- Settles O15: the frame of every instruction's updates is within its destinations. -/
theorem everyInstructionKeepsItsFrame : Obligations.EveryInstructionKeepsItsFrame := by
  unfold Obligations.EveryInstructionKeepsItsFrame
  exact fun _ _ _ => exec_frame

/-- A data store from `I` on leaves every byte outside its addresses. -/
theorem State.memRead_writeData_zero_of_ne (s : State) (bs : List Byte) (a : Nat)
    (h : ∀ k, k < bs.length → a % 4096 ≠ s.dataAddr k) : (s.writeData 0 bs).memRead a = s.memRead a :=
  s.memRead_writeData_of_ne 0 bs a fun j hj => by rw [Nat.zero_add]; exact h j hj

/-- LD B and LD [I] are data stores; memory is no destination of any other instruction. -/
theorem exec_memRead_of_not_stored {i : Instr} {s t : State} {a : Nat} (h : exec i s = .next t)
    (hne : ∀ k, k < storedBytes i → a % 4096 ≠ s.dataAddr k) : t.memRead a = s.memRead a := by
  cases i with
  | ldB x => injection h with h; subst h; exact s.memRead_writeData_zero_of_ne _ a hne
  | store x =>
    injection h with h
    subst h
    exact s.memRead_writeData_zero_of_ne _ a (s.length_regBlock x ▸ hne)
  | _ => exact (exec_frame h).2 .mem (by simp [destParts]) a

/-- Settles O16: a byte changes only where the instruction's data store writes it. -/
theorem storesTouchOnlyTheirBytes : Obligations.StoresTouchOnlyTheirBytes := by
  unfold Obligations.StoresTouchOnlyTheirBytes
  exact fun _ _ _ _ => exec_memRead_of_not_stored

/-- Settles O20: memory is addressed mod 4096, and a write is one update of it. -/
theorem memReadSeesMemWrite : Obligations.MemReadSeesMemWrite := by
  unfold Obligations.MemReadSeesMemWrite
  intro s addr b a
  refine ⟨s.memRead_memWrite addr b a, ?_, frame_memWrite s addr b⟩
  rw [State.memRead, State.memRead, Nat.mod_mod]

end Sys2Proof.Machine
end

section
/-! SUPPORT. Proofs about the invariant (spec/10_state.md R25, 00_scope.md R10): what each instruction and each event does to
`SP` and to the canonical form of memory, O7 and O8. -/

namespace Sys2Proof.Machine

/-! ### Instructions keep the invariant -/

/-- With `SP` at most 16 every instruction has a meaning: only RET and CALL stop, and only above 16. -/
theorem exec_answers {s : State} (hsp : s.sp ≤ Config.stackDepth) (i : Instr) : ∃ t, exec i s = .next t := by
  cases i with
  | ret =>
    by_cases h : s.sp = 0
    · exact ⟨_, execRet_of_empty s h⟩
    · exact ⟨_, execRet_of_live s h hsp⟩
  | call nnn =>
    by_cases h : s.sp = Config.stackDepth
    · exact ⟨_, execCall_of_full s nnn h⟩
    · exact ⟨_, execCall_of_room s nnn h hsp⟩
  | _ => exact ⟨_, rfl⟩

/-- RET lowers `SP` only above 0, CALL raises it only below 16, and no other instruction moves it. -/
theorem exec_sp_le {i : Instr} {s t : State} (h : exec i s = .next t) (hsp : s.sp ≤ Config.stackDepth) :
    t.sp ≤ Config.stackDepth := by
  cases i with
  | ret =>
    rcases execRet_cases s t h with ⟨-, rfl⟩ | ⟨hne, -, rfl⟩
    · exact hsp
    · rw [State.pop_eq, State.setPc_sp, State.setSp_sp]
      bv_omega
  | call nnn =>
    rcases execCall_cases s t nnn h with ⟨-, rfl⟩ | ⟨hne, -, rfl⟩
    · exact hsp
    · rw [State.setPc_sp, State.push_eq, State.setSp_sp]
      bv_omega
  | _ =>
    have hkept : t.sp = s.sp := (exec_frame h).2 .sp (by simp [destParts])
    exact hkept ▸ hsp

/-- What an instruction leaves as memory is what a data store leaves, of no bytes where it stores none. -/
theorem exec_mem_eq {i : Instr} {s t : State} (h : exec i s = .next t) : ∃ bs, t.mem = (s.writeData 0 bs).mem := by
  cases i with
  | ret => rcases execRet_cases s t h with ⟨-, rfl⟩ | ⟨-, -, rfl⟩ <;> exact ⟨[], rfl⟩
  | call nnn => rcases execCall_cases s t nnn h with ⟨-, rfl⟩ | ⟨-, -, rfl⟩ <;> exact ⟨[], rfl⟩
  | ldB | store => injection h with h; subst h; exact ⟨_, rfl⟩
  | load => injection h with h; subst h; exact ⟨[], s.setRegBlock_mem 0 _⟩
  | seImm | sneImm | seReg | sneReg | skp | sknp =>
    injection h with h; subst h; rw [State.skipIf_eq]; exact ⟨[], rfl⟩
  | _ => injection h with h; subst h; exact ⟨[], rfl⟩

theorem exec_keeps_inv {i : Instr} {s t : State} (h : exec i s = .next t) (hs : s.Inv) : t.Inv := by
  obtain ⟨bs, hmem⟩ := exec_mem_eq h
  exact ⟨exec_sp_le h hs.1, hmem ▸ s.writeData_wf 0 bs hs.2⟩

/-! ### Events keep the invariant -/

theorem State.loadImage_of_refused (s : State) (image : List Byte) (h : Config.maxImage < image.length) :
    s.loadImage image = s := by
  rw [State.loadImage, if_neg (Nat.not_le.mpr h)]

theorem State.resetWith_inv (s : State) (font : Vector Byte 80) : (s.resetWith font).Inv :=
  ⟨show (0 : Byte) ≤ Config.stackDepth by decide, Memory.wf_putList [] 0 font.toList (by simp [Config.memSize]) rfl⟩

theorem State.loadImage_inv {s : State} (h : s.Inv) (image : List Byte) : (s.loadImage image).Inv := by
  rcases Nat.lt_or_ge Config.maxImage image.length with hlen | hlen
  · rwa [State.loadImage_of_refused s image hlen]
  · rw [State.loadImage_of_accepted s image hlen]
    exact ⟨show (0 : Byte) ≤ Config.stackDepth by decide,
      Memory.wf_putList s.mem Config.progBase image (Nat.add_le_add_left hlen Config.progBase) h.2⟩

theorem State.resume_of_not_paused (s : State) (h : s.runState ≠ .paused) : s.resume = s := by
  unfold State.resume
  split
  · exact absurd ‹_› h
  · rfl
  · rfl

theorem State.pause_of_running (s : State) (h : s.runState = .running) : s.pause = s.setRunState .paused := by
  rw [State.pause, h]

theorem State.pause_of_not_running (s : State) (h : s.runState ≠ .running) : s.pause = s := by
  unfold State.pause
  split
  · exact absurd ‹_› h
  · rfl
  · rfl

/-- RESUME_REQ only sets `STATE`, to itself outside `Paused` (spec/60_exceptions.md R181, D18). -/
theorem State.resume_eq (s : State) :
    s.resume = s.setRunState (if s.runState = .paused then .running else s.runState) := by
  split_ifs with h
  · exact s.resume_of_paused h
  · exact s.resume_of_not_paused h

/-- PAUSE_REQ only sets `STATE`, to itself outside `Running` (spec/60_exceptions.md R180, D18). -/
theorem State.pause_eq (s : State) :
    s.pause = s.setRunState (if s.runState = .running then .paused else s.runState) := by
  split_ifs with h
  · exact s.pause_of_running h
  · exact s.pause_of_not_running h

theorem State.keyDown_inv {s : State} (h : s.Inv) (k : Nibble) : (s.keyDown k).Inv := by
  unfold State.keyDown
  split <;> exact h

theorem State.dbgWrite_of_paused {s : State} (h : s.runState = .paused) (g : DbgTarget) :
    s.dbgWrite g = s.dbgStore g := by
  rw [State.dbgWrite, h]

theorem State.dbgWrite_of_not_paused {s : State} (h : s.runState ≠ .paused) (g : DbgTarget) : s.dbgWrite g = s := by
  unfold State.dbgWrite
  split
  · exact absurd ‹_› h
  · rfl
  · rfl

/-- DBG_WRITE of `SP` refuses a value above 16 (D21). -/
theorem State.dbgStore_sp (s : State) (n : Byte) :
    s.dbgStore (.sp n) = s.setSp (if n ≤ Config.stackDepth then n else s.sp) := by
  rw [State.dbgStore]
  split_ifs <;> rfl

theorem State.dbgStore_inv {s : State} (h : s.Inv) (g : DbgTarget) : (s.dbgStore g).Inv := by
  cases g with
  | sp n =>
    rw [State.dbgStore_sp]
    refine ⟨?_, h.2⟩
    rw [State.setSp_sp]
    split_ifs with hn
    · exact hn
    · exact h.1
  | _ => exact h

theorem State.dbgWrite_inv {s : State} (h : s.Inv) (g : DbgTarget) : (s.dbgWrite g).Inv := by
  by_cases hp : s.runState = .paused
  · rw [State.dbgWrite_of_paused hp]
    exact State.dbgStore_inv h g
  · rwa [State.dbgWrite_of_not_paused hp]

/-- Every event is answered, and its effect keeps the invariant. -/
theorem deliver_answers_inv {s : State} (h : s.Inv) (e : Event) : ∃ t, deliver e s = .next t ∧ t.Inv := by
  cases e with
  | reset font => exact ⟨_, rfl, s.resetWith_inv font⟩
  | load image => exact ⟨_, rfl, State.loadImage_inv h image⟩
  | tick =>
    by_cases hr : s.runState = .running
    · have hb : s.beforeExecute.Inv := h
      obtain ⟨t, ht⟩ := exec_answers hb.1 (decodeWord s.fetchWord)
      exact ⟨t, (tick_of_running s hr).trans ht, exec_keeps_inv ht hb⟩
    · exact ⟨_, tick_of_not_running s hr, h⟩
  | resumeReq => exact ⟨_, rfl, s.resume_eq ▸ h⟩
  | pauseReq => exact ⟨_, rfl, s.pause_eq ▸ h⟩
  | keyDown k => exact ⟨_, rfl, State.keyDown_inv h k⟩
  | dbgWrite g => exact ⟨_, rfl, State.dbgWrite_inv h g⟩
  | keyUp | dbgRead | displayRead => exact ⟨_, rfl, h⟩

/-- Settles O7: the event is taken off the schedule, its effect is answered with the invariant, and no effect touches the
schedule. -/
theorem stepAnswersAndKeepsInv : Obligations.StepAnswersAndKeepsInv := by
  unfold Obligations.StepAnswersAndKeepsInv
  intro s h
  have htake : s.takeEvent.Inv := h
  obtain ⟨t, ht, hinv⟩ := deliver_answers_inv htake s.nextEvent
  obtain ⟨hinbox, hhost, hsent⟩ := deliver_schedule ht
  exact ⟨t, ht, hinv, fun n => (State.upcoming_congr hinbox hhost hsent n).trans (s.upcoming_takeEvent n)⟩

/-- Settles O8: reset has an empty stack and lists no byte. -/
theorem resetMeetsInv : Obligations.ResetMeetsInv := by
  unfold Obligations.ResetMeetsInv
  exact ⟨by decide, State.reset_mem_wf⟩

end Sys2Proof.Machine
end

section
/-! SUPPORT. Proofs about events and the step (spec/60_exceptions.md R170 to R194): the frames around an instruction and of
each event, what an instruction does to `STATE` and the report, O5, O6, O12, O13, O17, O55, O56 and O57. -/

namespace Sys2Proof.Machine

/-! ### A TICK around its instruction -/

/-- Taking an event touches only the schedule. -/
theorem frame_takeEvent (s : State) : Frame [] [.inbox, .sent] s s.takeEvent := by
  refine ⟨fun z _ => s.reg_takeEvent z, fun p hp => ?_⟩
  cases p with
  | inbox | sent => simp at hp
  | _ => simp [Kept]

/-- Before the instruction a TICK touches only the report, the timers and `PC` (R171, R173). -/
theorem frame_beforeExecute (s : State) : Frame [] [.pc, .dt, .st, .report] s s.beforeExecute := by
  refine ⟨fun z _ => s.reg_beforeExecute z, fun p hp => ?_⟩
  cases p with
  | pc | dt | st | report => simp at hp
  | _ => simp [Kept]

/-- The two bytes at `PC` are the fetched word (R70). -/
theorem decode_fetch (s : State) :
    decode [s.memRead s.pc.toNat, s.memRead (s.pc.toNat + 1)] = .ok (decodeWord s.fetchWord, []) := rfl

theorem frame_takeEvent_beforeExecute (s : State) :
    Frame [] [.pc, .dt, .st, .report, .inbox, .sent] s s.takeEvent.beforeExecute :=
  ((frame_takeEvent s).trans (frame_beforeExecute _)).mono (List.Subset.refl _) (by simp)

/-- Settles O5: the decoded instruction is that of the fetched word, and it runs after the decrement and the advance. -/
theorem stepRunsDecodedInstruction : Obligations.StepRunsDecodedInstruction := by
  unfold Obligations.StepRunsDecodedInstruction
  intro s i hrun htick hdec
  rw [decode_fetch] at hdec
  obtain ⟨hi, -⟩ := Prod.mk.inj (Except.ok.inj hdec)
  refine ⟨?_, rfl, countDown_toNat s.dt, countDown_toNat s.st, rfl, rfl, rfl, frame_takeEvent_beforeExecute s⟩
  rw [step_of_tick_running hrun htick, hi]

/-- Settles O6: outside `Running` a TICK only clears the report and leaves the schedule. -/
theorem tickIgnoredUnlessRunning : Obligations.TickIgnoredUnlessRunning := by
  unfold Obligations.TickIgnoredUnlessRunning
  intro s hrun htick
  refine ⟨s.takeEvent.setReport .none, ?_, rfl, rfl, rfl,
    ((frame_takeEvent s).trans (frame_setReport _ .none)).mono (List.Subset.refl _) (by simp)⟩
  rw [step_of_tick s htick, tick_of_not_running s.takeEvent hrun]

/-! ### `STATE` and the report after an instruction (R173 to R176) -/

/-- An instruction keeps `STATE` and the report, faults, or enters the key wait. -/
theorem exec_runState_cases {i : Instr} {s t : State} (h : exec i s = .next t) :
    (t.runState = s.runState ∧ t.report = s.report) ∨
    (i = .ret ∧ s.sp = 0 ∧ t = s.raise .stackUnderflow) ∨
    ((∃ nnn, i = .call nnn) ∧ s.sp = Config.stackDepth ∧ t = s.raise .stackOverflow) ∨
    ∃ x, i = .ldVxK x ∧ t = s.setRunState (.waitingForKey x) := by
  cases i with
  | ret =>
    rcases execRet_cases s t h with ⟨hsp, ht⟩ | ⟨-, -, rfl⟩
    · exact .inr (.inl ⟨rfl, hsp, ht⟩)
    · exact .inl ⟨rfl, rfl⟩
  | call nnn =>
    rcases execCall_cases s t nnn h with ⟨hsp, ht⟩ | ⟨-, -, rfl⟩
    · exact .inr (.inr (.inl ⟨⟨nnn, rfl⟩, hsp, ht⟩))
    · exact .inl ⟨rfl, rfl⟩
  | ldVxK x => injection h with h; exact .inr (.inr (.inr ⟨x, rfl, h.symm⟩))
  | _ =>
    have hframe := exec_frame h
    exact .inl ⟨hframe.2 .runState (by simp [destParts]), hframe.2 .report (by simp [destParts])⟩

/-- What a TICK answers is the report cleared outside `Running`, else what the instruction leaves. -/
theorem deliver_tick_cases {s t : State} (h : deliver .tick s = .next t) :
    (s.runState ≠ .running ∧ t = s.setReport .none) ∨
      (s.runState = .running ∧ exec (decodeWord s.fetchWord) s.beforeExecute = .next t) := by
  by_cases hr : s.runState = .running
  · exact .inr ⟨hr, (tick_of_running s hr).symm.trans h⟩
  · injection (tick_of_not_running s hr).symm.trans h with h
    exact .inl ⟨hr, h.symm⟩

/-- Settles O13: of what an instruction can do only the two fault entries set the report, each to its own value. -/
theorem reportNamesTheTwoFaults : Obligations.ReportNamesTheTwoFaults := by
  unfold Obligations.ReportNamesTheTwoFaults
  intro s t h
  rcases deliver_tick_cases h with ⟨hr, rfl⟩ | ⟨hr, hexec⟩
  · exact ⟨iff_of_false nofun fun hc => hr hc.1, iff_of_false nofun fun hc => hr hc.1⟩
  generalize decodeWord s.fetchWord = i at hexec ⊢
  constructor <;> constructor
  · intro hrep
    rcases exec_runState_cases hexec with ⟨-, hk⟩ | ⟨hi, hsp, -⟩ | ⟨-, -, rfl⟩ | ⟨x, -, rfl⟩
    · exact absurd (hk.symm.trans hrep) nofun
    · exact ⟨hr, hi, hsp⟩
    · exact absurd hrep nofun
    · exact absurd hrep nofun
  · rintro ⟨-, rfl, hsp⟩
    injection (execRet_of_empty s.beforeExecute hsp).symm.trans hexec with h
    exact h ▸ rfl
  · intro hrep
    rcases exec_runState_cases hexec with ⟨-, hk⟩ | ⟨-, -, rfl⟩ | ⟨hi, hsp, -⟩ | ⟨x, -, rfl⟩
    · exact absurd (hk.symm.trans hrep) nofun
    · exact absurd hrep nofun
    · exact ⟨hr, hi, hsp⟩
    · exact absurd hrep nofun
  · rintro ⟨-, ⟨nnn, rfl⟩, hsp⟩
    injection (execCall_of_full s.beforeExecute nnn hsp).symm.trans hexec with h
    exact h ▸ rfl

/-! ### The other events -/

/-- KEY_DOWN outside the wait only sets the key's flag (R182). -/
theorem deliver_keyDown_of_not_waiting {s : State} (h : ∀ r, s.runState ≠ .waitingForKey r) (k : Nibble) :
    deliver (.keyDown k) s = .next (s.setKey k true) := by
  rw [deliver, State.keyDown]
  split
  · exact absurd ‹_› (h _)
  · rfl
  · rfl

theorem frame_pause (s : State) : Frame [] [.runState] s s.pause := s.pause_eq ▸ frame_setRunState s _

theorem frame_resume (s : State) : Frame [] [.runState] s s.resume := s.resume_eq ▸ frame_setRunState s _

/-- DBG_WRITE reaches no key, no pixel, no byte of memory, not `STATE` and none of the model's own fields (D21). -/
theorem frame_dbgWrite (s : State) (g : DbgTarget) :
    ∃ regs, Frame regs [.i, .pc, .sp, .stack, .dt, .st] s (s.dbgWrite g) := by
  by_cases hp : s.runState = .paused
  · rw [State.dbgWrite_of_paused hp]
    cases g with
    | v x b => exact ⟨[x], (frame_setReg s x b).mono (List.Subset.refl _) (by simp)⟩
    | i w => exact ⟨[], (frame_setI s w).mono (List.Subset.refl _) (by simp)⟩
    | pc w => exact ⟨[], (frame_setPc s w).mono (List.Subset.refl _) (by simp)⟩
    | sp n => exact ⟨[], s.dbgStore_sp n ▸ (frame_setSp s _).mono (List.Subset.refl _) (by simp)⟩
    | stack k w => exact ⟨[], (frame_setSlot s k w).mono (List.Subset.refl _) (by simp)⟩
    | dt b => exact ⟨[], (frame_setDt s b).mono (List.Subset.refl _) (by simp)⟩
    | st b => exact ⟨[], (frame_setSt s b).mono (List.Subset.refl _) (by simp)⟩
  · rw [State.dbgWrite_of_not_paused hp]
    exact ⟨[], (Frame.refl s).mono (List.Subset.refl _) (by simp)⟩

/-- LOAD keeps the key flags (D16). -/
theorem State.held_loadImage (s : State) (image : List Byte) (k : Nibble) : (s.loadImage image).held k = s.held k := by
  unfold State.loadImage
  split_ifs <;> rfl

/-- After LOAD the machine is `Paused`, or nothing has changed (D17). -/
theorem State.loadImage_runState (s : State) (image : List Byte) :
    (s.loadImage image).runState = .paused ∨ (s.loadImage image).runState = s.runState := by
  unfold State.loadImage
  split_ifs
  · exact .inl rfl
  · exact .inr rfl

/-- Settles O12: each event's change of `STATE`, and for a TICK the instruction's. -/
theorem runStateChangesOnlyAsListed : Obligations.RunStateChangesOnlyAsListed := by
  unfold Obligations.RunStateChangesOnlyAsListed
  intro e s t h
  cases e with
  | reset font => injection h with h; subst h; exact .inr (.inr (.inr (.inr (.inr (.inr (.inr ⟨⟨font, rfl⟩, rfl⟩))))))
  | load image =>
    injection h with h
    subst h
    rcases s.loadImage_runState image with hp | hk
    · exact .inr (.inr (.inr (.inr (.inr (.inr (.inl ⟨⟨image, rfl⟩, hp⟩))))))
    · exact .inl hk
  | tick =>
    rcases deliver_tick_cases h with ⟨-, rfl⟩ | ⟨hr, hexec⟩
    · exact .inl rfl
    rcases exec_runState_cases hexec with ⟨hk, -⟩ | ⟨hi, hsp, rfl⟩ | ⟨hi, hsp, rfl⟩ | ⟨x, hi, rfl⟩
    · exact .inl hk
    · exact .inr (.inr (.inr (.inl ⟨rfl, hr, rfl, .inl ⟨hi, hsp⟩⟩)))
    · exact .inr (.inr (.inr (.inl ⟨rfl, hr, rfl, .inr ⟨hi, hsp⟩⟩)))
    · exact .inr (.inr (.inr (.inr (.inl ⟨rfl, hr, x, hi, rfl⟩))))
  | resumeReq =>
    injection h with h
    subst h
    by_cases hp : s.runState = .paused
    · exact .inr (.inl ⟨rfl, hp, s.resume_of_paused hp ▸ rfl⟩)
    · exact .inl (by rw [s.resume_of_not_paused hp])
  | pauseReq =>
    injection h with h
    subst h
    by_cases hr : s.runState = .running
    · exact .inr (.inr (.inl ⟨rfl, hr, s.pause_of_running hr ▸ rfl⟩))
    · exact .inl (by rw [s.pause_of_not_running hr])
  | keyDown k =>
    by_cases hw : ∃ r, s.runState = .waitingForKey r
    · obtain ⟨r, hr⟩ := hw
      injection (deliver_keyDown_of_waiting hr k).symm.trans h with h
      exact .inr (.inr (.inr (.inr (.inr (.inl ⟨⟨k, rfl⟩, ⟨r, hr⟩, h ▸ rfl⟩)))))
    · injection (deliver_keyDown_of_not_waiting (not_exists.mp hw) k).symm.trans h with h
      exact .inl (h ▸ rfl)
  | dbgWrite g =>
    injection h with h
    subst h
    obtain ⟨_, hframe⟩ := frame_dbgWrite s g
    exact .inl (hframe.2 .runState (by simp))
  | keyUp | dbgRead | displayRead => injection h with h; subst h; exact .inl rfl

/-- Settles O17: the key flags are no destination of any instruction and in no other event's frame. -/
theorem keysChangeOnlyByKeyEvents : Obligations.KeysChangeOnlyByKeyEvents := by
  unfold Obligations.KeysChangeOnlyByKeyEvents
  intro e s t h hdown hup hreset k
  cases e with
  | reset font => exact absurd rfl (hreset font)
  | keyDown k => exact absurd rfl (hdown k)
  | keyUp k => exact absurd rfl (hup k)
  | load image => injection h with h; subst h; exact s.held_loadImage image k
  | tick =>
    rcases deliver_tick_cases h with ⟨-, rfl⟩ | ⟨-, hexec⟩
    · rfl
    · have hkey : ∀ i, Part.key ∉ destParts i := fun i => by cases i <;> simp [destParts]
      exact (exec_frame hexec).2 .key (hkey _) k
  | resumeReq => injection h with h; subst h; exact (frame_resume s).2 .key (by simp) k
  | pauseReq => injection h with h; subst h; exact (frame_pause s).2 .key (by simp) k
  | dbgWrite g =>
    injection h with h
    subst h
    obtain ⟨_, hframe⟩ := frame_dbgWrite s g
    exact hframe.2 .key (by simp) k
  | dbgRead | displayRead => injection h with h; subst h; rfl

/-- A key code as `V[r]` takes it (R182). -/
theorem toNat_keyCode (k : Nibble) : (k.setWidth 8).toNat = k.toNat := BitVec.toNat_setWidth_of_le (by decide)

/-- Settles O55: KEY_DOWN sets one flag, in the wait also one register and `STATE`; KEY_UP clears one flag. -/
theorem keyEventsSetFlagsAndEndWait : Obligations.KeyEventsSetFlagsAndEndWait := by
  unfold Obligations.KeyEventsSetFlagsAndEndWait
  intro s k
  refine ⟨fun r hr => ?_, fun hr => ?_, ?_⟩
  · refine ⟨_, deliver_keyDown_of_waiting hr k, ?_, rfl, s.held_setKey k true, ?_⟩
    · rw [State.reg_setRunState, State.reg_setReg_self, toNat_keyCode]
    · exact ((frame_setKey s k true).trans (frame_setReg _ r _)).trans (frame_setRunState _ .running)
  · exact ⟨_, deliver_keyDown_of_not_waiting hr k, s.held_setKey k true, frame_setKey s k true⟩
  · exact ⟨_, rfl, s.held_setKey k false, frame_setKey s k false⟩

/-- Settles O56: each request is one write of `STATE`. -/
theorem requestsMoveOnlyTheirState : Obligations.RequestsMoveOnlyTheirState := by
  unfold Obligations.RequestsMoveOnlyTheirState
  intro s
  refine ⟨⟨_, rfl, ?_, frame_pause s⟩, ⟨_, rfl, ?_, frame_resume s⟩, rfl, rfl⟩
  · rw [State.pause_eq, State.setRunState_runState]
  · rw [State.resume_eq, State.setRunState_runState]

/-- In `Paused` DBG_WRITE performs its store (R189). -/
theorem deliver_dbgWrite_of_paused {s : State} (h : s.runState = .paused) (g : DbgTarget) :
    deliver (.dbgWrite g) s = .next (s.dbgStore g) :=
  congrArg _ (State.dbgWrite_of_paused h g)

/-- Settles O57: outside `Paused` DBG_WRITE does nothing, in it each target is one update. -/
theorem debugWritesOnlyWhilePaused : Obligations.DebugWritesOnlyWhilePaused := by
  unfold Obligations.DebugWritesOnlyWhilePaused
  refine ⟨fun s g h => congrArg _ (State.dbgWrite_of_not_paused h g), fun s x b h => ?_, fun s k w h => ?_,
    fun s n h => ?_, fun s b w h => ⟨?_, ?_, ?_, ?_⟩⟩
  · exact ⟨_, deliver_dbgWrite_of_paused h _, s.reg_setReg_self x b, frame_setReg s x b⟩
  · exact ⟨_, deliver_dbgWrite_of_paused h _, s.slot_setSlot k w, frame_setSlot s k w⟩
  · refine ⟨_, deliver_dbgWrite_of_paused h _, ?_, ?_⟩
    · rw [State.dbgStore_sp, State.setSp_sp]
      rfl
    · rw [State.dbgStore_sp]
      exact frame_setSp s _
  · exact ⟨_, deliver_dbgWrite_of_paused h _, rfl, frame_setI s w⟩
  · exact ⟨_, deliver_dbgWrite_of_paused h _, rfl, frame_setPc s w⟩
  · exact ⟨_, deliver_dbgWrite_of_paused h _, rfl, frame_setDt s b⟩
  · exact ⟨_, deliver_dbgWrite_of_paused h _, rfl, frame_setSt s b⟩

end Sys2Proof.Machine
end

section
/-! SUPPORT. Proofs about the stack and the no-ops (spec/40_fam0_2_control.md, 10_state.md R25, R26), and about what no
instruction observes, `ST` and the dead stack slots: O18, O19, O23, O24, O25, O26 and O27. -/

namespace Sys2Proof.Machine

/-! ### No-ops -/

theorem exec_of_isNoOp {i : Instr} (h : i.isNoOp = true) (s : State) : exec i s = .next s := by
  cases i with
  | nop0 | nop8 | nope | nopf => rfl
  | _ => nomatch h

/-- Settles O23: a no-op executes to the state it is given, so its TICK leaves what comes before the instruction. -/
theorem noOpsHaveNoEffect : Obligations.NoOpsHaveNoEffect := by
  unfold Obligations.NoOpsHaveNoEffect
  refine ⟨fun i s h => exec_of_isNoOp h s, fun s hrun htick hno => ⟨s.takeEvent.beforeExecute, ?_, rfl,
    countDown_toNat s.dt, countDown_toNat s.st, rfl, rfl, rfl, frame_takeEvent_beforeExecute s⟩⟩
  rw [step_of_tick_running hrun htick, exec_of_isNoOp hno]

/-! ### RET and CALL (R91, R94) -/

theorem toNat_slotNumber {n : Byte} (h : n.toNat < 16) : (slotNumber n).toNat = n.toNat := by
  rw [slotNumber, BitVec.toNat_setWidth, Nat.mod_eq_of_lt h]

/-- Settles O24: with a live entry RET is the pop. -/
theorem retPopsIntoPc : Obligations.RetPopsIntoPc := by
  unfold Obligations.RetPopsIntoPc
  intro s hpos hle
  have hsub : (s.sp - 1).toNat = s.sp.toNat - 1 := by bv_omega
  refine ⟨s.pop, execRet_of_live s (by bv_omega) (by bv_omega), hsub, ?_, frame_pop s⟩
  rw [State.pop_eq, State.setPc_pc, ← hsub, BitVec.ofNat_toNat, slotNumber]

theorem exec_call_of_room (nnn : Addr12) {s : State} (h : s.sp.toNat < 16) :
    exec (.call nnn) s = .next (s.push.setPc (addrImm nnn)) :=
  execCall_of_room s nnn (by bv_omega) (by bv_omega)

/-- The slots after a push and a jump: slot `SP` holds the old `PC`. -/
theorem State.slot_push_setPc {s : State} (h : s.sp.toNat < 16) (w : Word) (k : Nibble) :
    (s.push.setPc w).slot k = if k.toNat = s.sp.toNat then s.pc else s.slot k := by
  rw [State.slot_setPc, State.push_eq, State.slot_setSp, State.slot_setSlot, ← toNat_slotNumber h]
  simp only [BitVec.toNat_inj]

/-- Settles O25: with room CALL is the push and the jump. -/
theorem callPushesAndJumps : Obligations.CallPushesAndJumps := by
  unfold Obligations.CallPushesAndJumps
  intro s nnn h
  refine ⟨_, exec_call_of_room nnn h, toNat_addrImm nnn, ?_, State.slot_push_setPc h _, frame_push_setPc s _⟩
  rw [State.setPc_sp, State.push_eq, State.setSp_sp]
  bv_omega

/-- Settles O26: each fault is its entry, which only sets `STATE` and the report. -/
theorem stackFaultsPauseAndReport : Obligations.StackFaultsPauseAndReport := by
  unfold Obligations.StackFaultsPauseAndReport
  exact ⟨fun s h => ⟨_, execRet_of_empty s h, rfl, rfl, frame_raise s _⟩,
    fun s nnn h => ⟨_, execCall_of_full s nnn h, rfl, rfl, frame_raise s _⟩⟩

/-- Settles O27: the slot RET reads is the one CALL wrote. -/
theorem retUndoesMatchingCall : Obligations.RetUndoesMatchingCall := by
  unfold Obligations.RetUndoesMatchingCall
  intro s nnn h
  refine ⟨_, exec_call_of_room nnn h, fun u husp hlive => ?_⟩
  rw [State.setPc_sp, State.push_eq, State.setSp_sp] at husp hlive
  have hback : u.sp - 1 = s.sp := by bv_omega
  have hslot := toNat_slotNumber h
  refine ⟨u.pop, execRet_of_live u (by bv_omega) (by bv_omega), ?_, hback⟩
  rw [State.pop_eq, State.setPc_pc, hback, hlive _ (by bv_omega), ← State.push_eq, State.slot_push_setPc h, if_pos hslot]

/-! ### `ST` is never read (R28) -/

/-- Settles O18: LD ST, Vx overwrites `ST`, every other instruction carries the changed value along. -/
theorem soundTimerNeverRead : Obligations.SoundTimerNeverRead := by
  unfold Obligations.SoundTimerNeverRead
  intro i s t b h
  by_cases hi : ∃ x, i = .ldStVx x
  · obtain ⟨x, rfl⟩ := hi
    injection h with h
    subst h
    exact ⟨_, rfl, rfl, rfl⟩
  · rcases exec_setSt_cases h b with hother | ⟨x, hx, -⟩
    · refine ⟨_, hother, rfl, ?_⟩
      split
      · exact absurd ⟨_, rfl⟩ hi
      · rfl
    · exact absurd ⟨x, hx⟩ hi

/-! ### Dead stack slots are never read (R26) -/

/-- The state with another stack array. -/
def State.withStack (s : State) (st : Vector Word 16) : State := { s with stack := st }

theorem State.slot_withStack_stack (s u : State) (k : Nibble) : (s.withStack u.stack).slot k = u.slot k := rfl

theorem SameButDeadSlots.eq_withStack {s s' : State} (h : SameButDeadSlots s s') : s' = s.withStack s'.stack := by
  have hrest := congrArg (fun u : State => u.withStack s'.stack) h.rest
  exact hrest

theorem sameButDeadSlots_withStack {t : State} {st : Vector Word 16}
    (h : ∀ k : Nibble, k.toNat < t.sp.toNat → (t.withStack st).slot k = t.slot k) :
    SameButDeadSlots t (t.withStack st) := ⟨h, rfl⟩

theorem State.writeData_withStack (s : State) (st : Vector Word 16) (k : Nat) (bs : List Byte) :
    (s.withStack st).writeData k bs = (s.writeData k bs).withStack st := by
  induction bs generalizing s k with
  | nil => rfl
  | cons c bs ih => exact ih (s.memWrite (s.dataAddr k) c) (k + 1)

theorem State.setRegBlock_withStack (s : State) (st : Vector Word 16) (k : Nat) (bs : List Byte) :
    (s.withStack st).setRegBlock k bs = (s.setRegBlock k bs).withStack st := by
  induction bs generalizing s k with
  | nil => rfl
  | cons c bs ih => exact ih (s.setReg (BitVec.ofNat 4 k) c) (k + 1)

theorem State.skipIf_withStack (s : State) (st : Vector Word 16) (c : Bool) :
    (s.withStack st).skipIf c = (s.skipIf c).withStack st := by
  cases c <;> rfl

/-- RET and CALL aside, an instruction carries the stack array along unread. -/
theorem exec_withStack {i : Instr} {s t : State} (h : exec i s = .next t) (hret : i ≠ .ret)
    (hcall : ∀ nnn, i ≠ .call nnn) (st : Vector Word 16) : exec i (s.withStack st) = .next (t.withStack st) := by
  cases i with
  | ret => exact absurd rfl hret
  | call nnn => exact absurd rfl (hcall nnn)
  | ldB | store => injection h with h; subst h; exact congrArg _ (s.writeData_withStack st 0 _)
  | load => injection h with h; subst h; exact congrArg _ (s.setRegBlock_withStack st 0 _)
  | seImm | sneImm | seReg | sneReg | skp | sknp =>
    injection h with h; subst h; exact congrArg _ (s.skipIf_withStack st _)
  | _ => injection h with h; subst h; rfl

/-- RET reads only the slot below `SP`, which is live. -/
theorem execRet_withStack {s t : State} {st : Vector Word 16} (h : execRet s = .next t)
    (hlive : ∀ k : Nibble, k.toNat < s.sp.toNat → (s.withStack st).slot k = s.slot k) :
    execRet (s.withStack st) = .next (t.withStack st) ∧ t.sp.toNat ≤ s.sp.toNat ∧ ∀ k, t.slot k = s.slot k := by
  rcases execRet_cases s t h with ⟨hsp, rfl⟩ | ⟨hne, hle, rfl⟩
  · exact ⟨execRet_of_empty (s.withStack st) hsp, Nat.le_refl _, fun _ => rfl⟩
  · have hdown : (s.sp - 1).toNat < s.sp.toNat := by bv_omega
    refine ⟨(execRet_of_live (s.withStack st) hne hle).trans (congrArg _ ?_), hdown.le, fun _ => rfl⟩
    have hslot := hlive (slotNumber (s.sp - 1)) (by rw [toNat_slotNumber (by bv_omega)]; exact hdown)
    exact congrArg (fun w => ((s.setSp (s.sp - 1)).setPc w).withStack st) hslot

/-- CALL writes the same `PC` into the same slot, which then is live, whatever the dead slots held. -/
theorem execCall_withStack {s t : State} {nnn : Addr12} {st : Vector Word 16} (h : execCall nnn s = .next t)
    (hlive : ∀ k : Nibble, k.toNat < s.sp.toNat → (s.withStack st).slot k = s.slot k) :
    ∃ st', execCall nnn (s.withStack st) = .next (t.withStack st') ∧
      ∀ k : Nibble, k.toNat < t.sp.toNat → (t.withStack st').slot k = t.slot k := by
  rcases execCall_cases s t nnn h with ⟨hsp, rfl⟩ | ⟨hne, hle, rfl⟩
  · exact ⟨st, execCall_of_full (s.withStack st) nnn hsp, hlive⟩
  · refine ⟨((s.withStack st).push.setPc (addrImm nnn)).stack, execCall_of_room (s.withStack st) nnn hne hle,
      fun k hk => ?_⟩
    have hroom : s.sp.toNat < 16 := by bv_omega
    rw [State.setPc_sp, State.push_eq, State.setSp_sp] at hk
    rw [State.slot_withStack_stack, State.slot_push_setPc (s := s.withStack st) hroom, State.slot_push_setPc hroom]
    change (if k.toNat = s.sp.toNat then s.pc else (s.withStack st).slot k) = _
    split_ifs with hkeq
    · rfl
    · exact hlive k (by bv_omega)

/-- Settles O19: RET reads a live slot, CALL makes the slot it writes live, and no other instruction sees the stack. -/
theorem deadSlotsUnobservable : Obligations.DeadSlotsUnobservable := by
  unfold Obligations.DeadSlotsUnobservable
  intro i s s' t _ hsame h
  have hlive := hsame.live
  rw [hsame.eq_withStack] at hlive ⊢
  generalize s'.stack = st at hlive ⊢
  by_cases hret : i = .ret
  · subst hret
    obtain ⟨h', hsp, hslot⟩ := execRet_withStack h hlive
    exact ⟨_, h', sameButDeadSlots_withStack fun k hk => (hlive k (hk.trans_le hsp)).trans (hslot k).symm⟩
  by_cases hcall : ∃ nnn, i = .call nnn
  · obtain ⟨nnn, rfl⟩ := hcall
    obtain ⟨st', h', hlive'⟩ := execCall_withStack h hlive
    exact ⟨_, h', sameButDeadSlots_withStack hlive'⟩
  · have hframe := exec_frame h
    have hparts : Part.sp ∉ destParts i ∧ Part.stack ∉ destParts i := by
      cases i with
      | ret => exact absurd rfl hret
      | call nnn => exact absurd ⟨nnn, rfl⟩ hcall
      | _ => simp [destParts]
    have hsp : t.sp = s.sp := hframe.2 .sp hparts.1
    have hslot : ∀ k, t.slot k = s.slot k := hframe.2 .stack hparts.2
    exact ⟨_, exec_withStack h hret (not_exists.mp hcall) st,
      sameButDeadSlots_withStack fun k hk => (hlive k (hsp ▸ hk)).trans (hslot k).symm⟩

end Sys2Proof.Machine
end

section
/-! SUPPORT. Proofs about the canonical form of memory (spec/20_memory.md R50), the block moves of family F
(46_famF_misc.md R156 to R158), reset, RESET and LOAD (10_state.md R34, 70_reset_and_hazards.md R200 to R202): O9, O10, O11, O21,
O51, O52, O53, O54, O58 and O59. -/

namespace Sys2Proof.Machine

/-! ### The canonical form is one -/

theorem Memory.wfFrom_cons_iff (lo k : Nat) (b : Byte) (m : Memory) :
    Memory.wfFrom lo ((k, b) :: m) = true ↔
      lo ≤ k ∧ k < 4096 ∧ b ≠ Memory.unlisted k ∧ Memory.wfFrom (k + 1) m = true := by
  simp [Memory.wfFrom, and_assoc]

/-- Below its first listed address a canonical memory reads as unlisted. -/
theorem Memory.get_of_lt_of_wfFrom {lo : Nat} {m : Memory} (h : Memory.wfFrom lo m = true) {a : Nat} (ha : a < lo) :
    m.get a = Memory.unlisted a := by
  induction m generalizing lo with
  | nil => rfl
  | cons c m ih =>
    obtain ⟨k, b⟩ := c
    obtain ⟨hlo, -, -, hm⟩ := (Memory.wfFrom_cons_iff lo k b m).mp h
    rw [Memory.get, if_neg (by omega), ih hm (by omega)]

theorem Memory.get_cons_self (k : Nat) (b : Byte) (m : Memory) : Memory.get ((k, b) :: m) k = b := if_pos rfl

theorem Memory.get_cons_of_ne {a k : Nat} (h : a ≠ k) (b : Byte) (m : Memory) :
    Memory.get ((k, b) :: m) a = m.get a := if_neg h

/-- The first listed address of a canonical memory shows: any other that reads the same there lists an address as low. -/
theorem Memory.le_of_get_eq {lo k k' : Nat} {b b' : Byte} {m m' : Memory}
    (h : Memory.wfFrom lo ((k, b) :: m) = true) (h' : Memory.wfFrom lo ((k', b') :: m') = true)
    (hget : ∀ a, a < 4096 → Memory.get ((k, b) :: m) a = Memory.get ((k', b') :: m') a) : k' ≤ k := by
  obtain ⟨-, hk, hb, -⟩ := (Memory.wfFrom_cons_iff lo k b m).mp h
  obtain ⟨-, hk', hb', hm'⟩ := (Memory.wfFrom_cons_iff lo k' b' m').mp h'
  by_contra hlt
  have hfrom : Memory.wfFrom k' ((k', b') :: m') = true :=
    (Memory.wfFrom_cons_iff k' k' b' m').mpr ⟨Nat.le_refl _, hk', hb', hm'⟩
  refine hb ?_
  rw [← Memory.get_cons_self k b m, hget k hk, Memory.get_of_lt_of_wfFrom hfrom (by omega)]

/-- A canonical memory with a listed byte does not read as the empty one. -/
theorem Memory.get_cons_ne_get_nil {lo k : Nat} {b : Byte} {m : Memory}
    (h : Memory.wfFrom lo ((k, b) :: m) = true) : k < 4096 ∧ Memory.get ((k, b) :: m) k ≠ Memory.get [] k := by
  obtain ⟨-, hk, hb, -⟩ := (Memory.wfFrom_cons_iff lo k b m).mp h
  exact ⟨hk, by rwa [Memory.get_cons_self]⟩

theorem Memory.eq_of_get_eq {lo : Nat} {m m' : Memory} (h : Memory.wfFrom lo m = true)
    (h' : Memory.wfFrom lo m' = true) (hget : ∀ a, a < 4096 → m.get a = m'.get a) : m = m' := by
  induction m generalizing lo m' with
  | nil =>
    cases m' with
    | nil => rfl
    | cons c m' =>
      obtain ⟨hk, hne⟩ := Memory.get_cons_ne_get_nil h'
      exact absurd (hget _ hk).symm hne
  | cons c m ih =>
    cases m' with
    | nil =>
      obtain ⟨hk, hne⟩ := Memory.get_cons_ne_get_nil h
      exact absurd (hget _ hk) hne
    | cons c' m' =>
      obtain ⟨k, b⟩ := c
      obtain ⟨k', b'⟩ := c'
      obtain rfl : k = k' :=
        Nat.le_antisymm (Memory.le_of_get_eq h' h fun a ha => (hget a ha).symm) (Memory.le_of_get_eq h h' hget)
      obtain ⟨-, hk, -, hm⟩ := (Memory.wfFrom_cons_iff lo k b m).mp h
      obtain ⟨-, -, -, hm'⟩ := (Memory.wfFrom_cons_iff lo k b' m').mp h'
      obtain rfl : b = b' := by simpa only [Memory.get_cons_self] using hget k hk
      rw [ih hm hm' fun a ha => ?_]
      by_cases hak : a = k
      · subst hak
        rw [Memory.get_of_lt_of_wfFrom hm (Nat.lt_succ_self a), Memory.get_of_lt_of_wfFrom hm' (Nat.lt_succ_self a)]
      · simpa only [Memory.get_cons_of_ne hak] using hget a ha

/-- Settles O21: address by address from below, the first listed byte of one memory is that of the other. -/
theorem canonicalMemoryIsUnique : Obligations.CanonicalMemoryIsUnique := by
  unfold Obligations.CanonicalMemoryIsUnique
  exact fun m m' => Memory.eq_of_get_eq

/-! ### Decimal digits, block store and block load (R156 to R158) -/

theorem exec_ldB (x : Reg) (s : State) : exec (.ldB x) s = .next (s.writeData 0 (decimalDigits (s.reg x))) := rfl

theorem exec_store (x : Reg) (s : State) : exec (.store x) s = .next (s.writeData 0 (s.regBlock x)) := rfl

theorem exec_load (x : Reg) (s : State) :
    exec (.load x) s = .next (s.setRegBlock 0 (s.readData (blockLength x))) := rfl

/-- A data store from `I` on reads back byte by byte. -/
theorem State.memRead_writeData_zero (s : State) (bs : List Byte) (hlen : bs.length ≤ 4096) (k : Nat)
    (hk : k < bs.length) : (s.writeData 0 bs).memRead (s.dataAddr k) = bs[k] := by
  simpa only [Nat.zero_add] using s.memRead_writeData 0 bs hlen k hk

@[simp] theorem length_decimalDigits (b : Byte) : (decimalDigits b).length = 3 := rfl

/-- Settles O51: LD B is the data store of the three digits, each of which fits its byte. -/
theorem ldBStoresDecimalDigits : Obligations.LdBStoresDecimalDigits := by
  unfold Obligations.LdBStoresDecimalDigits
  intro s x
  have hlt := (s.reg x).isLt
  have hread := s.memRead_writeData_zero (decimalDigits (s.reg x)) (by simp)
  refine ⟨_, exec_ldB x s, ?_, ?_, ?_, s.memRead_writeData_zero_of_ne (decimalDigits (s.reg x)), frame_writeData s 0 _⟩
  · rw [hread 0 (by simp)]
    exact Nat.mod_eq_of_lt (by omega)
  · rw [hread 1 (by simp)]
    exact Nat.mod_eq_of_lt (by omega)
  · rw [hread 2 (by simp)]
    exact Nat.mod_eq_of_lt (by omega)

/-- The block store puts `V[z]` at `I + z` (R157). -/
theorem State.memRead_store (s : State) {x z : Reg} (h : z.toNat ≤ x.toNat) :
    (s.writeData 0 (s.regBlock x)).memRead (s.dataAddr z.toNat) = s.reg z := by
  have hlen : (s.regBlock x).length = blockLength x := s.length_regBlock x
  have hle := blockLength_le x
  have hlt : z.toNat < blockLength x := Nat.lt_succ_of_le h
  rw [s.memRead_writeData_zero _ (by omega) z.toNat (by omega), ← Option.some_inj, ← List.getElem?_eq_getElem,
    s.getElem?_regBlock x _ hlt, BitVec.ofNat_toNat, BitVec.setWidth_eq]

/-- Settles O52: LD [I], Vx is the data store of the block's registers. -/
theorem storeWritesRegisterBlock : Obligations.StoreWritesRegisterBlock := by
  unfold Obligations.StoreWritesRegisterBlock
  intro s x
  refine ⟨_, exec_store x s, fun z => s.memRead_store, fun a ha => ?_, frame_writeData s 0 _⟩
  exact s.memRead_writeData_zero_of_ne _ a fun k hk =>
    ha k (Nat.le_of_lt_succ (Nat.lt_of_lt_of_eq hk (s.length_regBlock x)))

/-- Settles O53: LD Vx, [I] is the register block load of the bytes from `I` on. -/
theorem loadReadsRegisterBlock : Obligations.LoadReadsRegisterBlock := by
  unfold Obligations.LoadReadsRegisterBlock
  exact fun s x => ⟨_, exec_load x s, s.reg_setRegBlock_readData x, frame_load s x⟩

/-- Settles O54: the load reads where the store wrote, both from the same `I`. -/
theorem loadAfterStoreRestoresBlock : Obligations.LoadAfterStoreRestoresBlock := by
  unfold Obligations.LoadAfterStoreRestoresBlock
  intro s x
  refine ⟨_, exec_store x s, fun u hi hmem => ⟨_, exec_load x u, fun z hz => ?_⟩⟩
  have haddr : u.dataAddr z.toNat = s.dataAddr z.toNat := by rw [State.dataAddr, hi, State.writeData_i, State.dataAddr]
  rw [State.reg_setRegBlock_readData, if_pos hz, haddr, hmem, s.memRead_store hz]

/-! ### Reset and RESET (R34, R200) -/

theorem State.reg_reset (x : Reg) : State.reset.reg x = 0 := by simp [State.reg, State.reset]

theorem State.slot_reset (k : Nibble) : State.reset.slot k = 0 := by simp [State.slot, State.reset]

theorem State.held_reset (k : Nibble) : State.reset.held k = false := by simp [State.held, State.reset]

/-- Above the font an unlisted address reads 0 (D14). -/
theorem Memory.unlisted_of_ge {a : Nat} (h : 80 ≤ a) : Memory.unlisted a = 0 := List.getD_eq_default _ _ h

theorem State.memRead_of_lt (s : State) {a : Nat} (h : a < 4096) : s.memRead a = s.mem.get a := by
  rw [State.memRead, Nat.mod_eq_of_lt h]

/-- Settles O9: the values as State.reset lists them. -/
theorem resetLeavesGivenValues : Obligations.ResetLeavesGivenValues := by
  unfold Obligations.ResetLeavesGivenValues
  exact ⟨rfl, rfl, Display.get_blank, rfl⟩

/-- Settles O10: State.reset holds zeros and lists no byte, so its memory is what unlisted addresses read as. -/
theorem resetLeavesChosenValues : Obligations.ResetLeavesChosenValues := by
  unfold Obligations.ResetLeavesChosenValues
  refine ⟨State.reg_reset, rfl, State.slot_reset, rfl, rfl, State.held_reset, fun a ha => ?_, fun a ha ha' => ?_⟩
  · rw [State.memRead_of_lt _ (by omega)]
    rfl
  · rw [State.memRead_of_lt _ ha']
    exact Memory.unlisted_of_ge ha

/-- Memory after RESET: the font, and above it zeros (R200, D14). -/
theorem State.memRead_resetWith (s : State) (font : Vector Byte 80) {a : Nat} (ha : a < 4096) :
    (s.resetWith font).memRead a = font.toList.getD a 0 := by
  rw [State.memRead_of_lt _ ha]
  refine (Memory.get_putList [] 0 font.toList a).trans ?_
  rw [Vector.length_toList, Nat.zero_add, Nat.sub_zero]
  split_ifs with h
  · rfl
  · have hge : 80 ≤ a := by omega
    rw [List.getD_eq_default _ _ (by rwa [Vector.length_toList])]
    exact Memory.unlisted_of_ge hge

/-- Settles O11: RESET rebuilds the state of reset around a memory written with its FONT. -/
theorem resetEventPlacesFont : Obligations.ResetEventPlacesFont := by
  unfold Obligations.ResetEventPlacesFont
  intro s font
  refine ⟨_, rfl, fun a ha => ?_, fun a ha ha' => ?_, rfl, rfl, Display.get_blank, rfl, State.reg_reset, rfl,
    State.slot_reset, rfl, rfl, State.held_reset⟩
  · rw [s.memRead_resetWith font (by omega), List.getD_eq_getElem _ _ (by simpa using ha), Vector.getElem_toList]
  · rw [s.memRead_resetWith font ha', List.getD_eq_default _ _ (by simpa using ha)]

/-! ### LOAD (R65, R201, R202) -/

/-- Memory after an accepted LOAD: the image from 0x200 on, every other byte as before (D16). -/
theorem State.memRead_loadImage (s : State) {image : List Byte} (h : image.length ≤ Config.maxImage) {a : Nat}
    (ha : a < 4096) : (s.loadImage image).memRead a =
      if 0x200 ≤ a ∧ a < 0x200 + image.length then image.getD (a - 0x200) 0 else s.memRead a := by
  rw [s.loadImage_of_accepted image h, State.memRead_of_lt _ ha, State.memRead_of_lt _ ha]
  exact Memory.get_putList s.mem Config.progBase image a

/-- Settles O59: an accepted LOAD is the image written and the resets; a longer one is no change. -/
theorem loadResetsAllButKeysAndRest : Obligations.LoadResetsAllButKeysAndRest := by
  unfold Obligations.LoadResetsAllButKeysAndRest
  refine ⟨fun s image hlen => ?_, fun s image hlen => congrArg _ (s.loadImage_of_refused image hlen)⟩
  refine ⟨(s.setMem (s.mem.putList Config.progBase image)).loadResets,
    congrArg _ (s.loadImage_of_accepted image hlen), State.reg_reset, rfl, rfl, rfl, State.slot_reset, rfl, rfl,
    Display.get_blank, rfl, fun _ => rfl, fun a ha hout => ?_⟩
  rw [← s.loadImage_of_accepted image hlen, s.memRead_loadImage hlen ha, if_neg (by omega)]

/-- Settles O58: LOAD writes the image, and of the other events only a TICK's instruction reaches memory. -/
theorem loadedImageReadsBack : Obligations.LoadedImageReadsBack := by
  unfold Obligations.LoadedImageReadsBack
  refine ⟨fun s image hlen => ⟨_, rfl, fun k hk => ?_⟩, fun e s t a h hload hreset hstores => ?_⟩
  · rw [s.memRead_loadImage hlen (by omega), if_pos (by omega), Nat.add_sub_cancel_left, List.getD_eq_getElem _ _ hk]
  cases e with
  | load image => exact absurd rfl (hload image)
  | reset font => exact absurd rfl (hreset font)
  | tick =>
    rcases deliver_tick_cases h with ⟨-, rfl⟩ | ⟨hrun, hexec⟩
    · rfl
    · exact exec_memRead_of_not_stored (s := s.beforeExecute) hexec (hstores rfl hrun)
  | resumeReq => injection h with h; subst h; exact (frame_resume s).2 .mem (by simp) a
  | pauseReq => injection h with h; subst h; exact (frame_pause s).2 .mem (by simp) a
  | keyDown k => injection h with h; subst h; unfold State.keyDown; split <;> rfl
  | dbgWrite g =>
    injection h with h
    subst h
    obtain ⟨_, hframe⟩ := frame_dbgWrite s g
    exact hframe.2 .mem (by simp) a
  | keyUp | dbgRead | displayRead => injection h with h; subst h; rfl

end Sys2Proof.Machine
end

section
/-! SUPPORT. Proofs about the compositor and DRW (spec/44_famD_draw.md R130 to R136): the pixels a sprite does not cover, the
collision result of its rows, O41, O42, O43 and O44. -/

namespace Sys2Proof.Machine

/-! ### Pixels a sprite does not cover, and the collision result -/

theorem Display.get_congr (d : Display) {r r' c c' : Nat} (hr : r % 32 = r' % 32) (hc : c % 64 = c' % 64) :
    d.get r c = d.get r' c' := by
  rw [← d.get_mod r c, hr, hc, d.get_mod]

/-- A pixel that no bit of the rows falls on is left as it is (R136). -/
theorem drawRows_get_of_not_covered (ox r : Nat) (rows : List Byte) (acc : Display × Bool) (r' c' : Nat)
    (h : ∀ i j, i < rows.length → j < 8 → ¬(r' % 32 = (r + i) % 32 ∧ c' % 64 = (ox + j) % 64)) :
    (drawRows ox r rows acc).1.get r' c' = acc.1.get r' c' := by
  induction rows generalizing r acc with
  | nil => rfl
  | cons b rows ih =>
    have hlater : ∀ i j, i < rows.length → j < 8 → ¬(r' % 32 = (r + 1 + i) % 32 ∧ c' % 64 = (ox + j) % 64) := by
      intro i j hi hj
      rw [show r + 1 + i = r + (i + 1) by omega]
      exact h (i + 1) j (by simpa using hi) hj
    have hfirst : r' % 32 ≠ r % 32 ∨ ∀ j, j < (spriteBits b).length → c' % 64 ≠ (ox + j) % 64 := by
      rw [← imp_iff_not_or]
      exact fun hr j hj hc => h 0 j (by simp) hj ⟨hr, hc⟩
    rw [drawRows, ih (r + 1) _ hlater]
    exact (drawBits_spec r ox (spriteBits b) acc (by simp [length_spriteBits])).2.1 r' c' hfirst

/-- One sprite row adds to the collision result its on bits that meet an on pixel (R133). -/
theorem drawBits_spriteBits_collision (r ox : Nat) (b : Byte) (acc : Display × Bool) :
    (drawBits r ox (spriteBits b) acc).2 = true ↔
      acc.2 = true ∨ ∃ j, j < 8 ∧ acc.1.get r (ox + j) = true ∧ b.getLsbD (7 - j) = true := by
  have hlen : (spriteBits b).length ≤ 64 := by simp [length_spriteBits]
  rw [(drawBits_spec r ox (spriteBits b) acc hlen).2.2]
  simp only [getElem_spriteBits, exists_prop]
  rw [length_spriteBits]

/-- Up to 32 rows meet no display row twice, so every bit meets the pixel as it was before the sprite. -/
theorem drawRows_collision (ox r : Nat) (rows : List Byte) (acc : Display × Bool) (hlen : rows.length ≤ 32) :
    (drawRows ox r rows acc).2 = true ↔ acc.2 = true ∨ ∃ i j, ∃ h : i < rows.length, j < 8 ∧
      acc.1.get (r + i) (ox + j) = true ∧ rows[i].getLsbD (7 - j) = true := by
  induction rows generalizing r acc with
  | nil => simp [drawRows]
  | cons b rows ih =>
    rw [List.length_cons] at hlen
    have hlater : ∀ i j, i < rows.length →
        (drawBits r ox (spriteBits b) acc).1.get (r + 1 + i) (ox + j) = acc.1.get (r + (i + 1)) (ox + j) := by
      intro i j hi
      rw [drawBits_spriteBits_get_of_ne r ox b acc _ _ (by omega), show r + 1 + i = r + (i + 1) by omega]
    rw [drawRows, ih (r + 1) _ (by omega), drawBits_spriteBits_collision, or_assoc]
    refine or_congr Iff.rfl ⟨?_, ?_⟩
    · rintro (⟨j, hj, hget, hbit⟩ | ⟨i, j, hi, hj, hget, hbit⟩)
      · exact ⟨0, j, Nat.succ_pos _, hj, hget, hbit⟩
      · exact ⟨i + 1, j, Nat.succ_lt_succ hi, hj, hlater i j hi ▸ hget, hbit⟩
    · rintro ⟨i, j, hi, hj, hget, hbit⟩
      cases i with
      | zero => exact .inl ⟨j, hj, hget, hbit⟩
      | succ i =>
        have hi' : i < rows.length := Nat.lt_of_succ_lt_succ hi
        exact .inr ⟨i, j, hi', hj, (hlater i j hi').trans hget, hbit⟩

/-- The compositor leaves every pixel that no bit of the sprite falls on. -/
theorem compositeSprite_get_of_not_covered (ox oy : Byte) (rows : List Byte) (d : Display) (r c : Nat)
    (h : ∀ i j, i < rows.length → j < 8 → ¬(r % 32 = (oy.toNat + i) % 32 ∧ c % 64 = (ox.toNat + j) % 64)) :
    (compositeSprite ox oy rows d).1.get r c = d.get r c :=
  drawRows_get_of_not_covered ox.toNat oy.toNat rows (d, false) r c h

/-- Settles O42: the compositor's rows, covered pixels and others. -/
theorem compositorXorsTargetPixels : Obligations.CompositorXorsTargetPixels := by
  unfold Obligations.CompositorXorsTargetPixels
  intro ox oy rows d hlen
  exact ⟨fun i j hi hj => compositeSprite_get ox oy rows d (by omega) i j hi hj,
    compositeSprite_get_of_not_covered ox oy rows d⟩

/-- Settles O43: the compositor starts its rows with no collision. -/
theorem collisionIffPixelTurnedOff : Obligations.CollisionIffPixelTurnedOff := by
  unfold Obligations.CollisionIffPixelTurnedOff
  intro ox oy rows d hlen
  exact (drawRows_collision ox.toNat oy.toNat rows (d, false) (by omega)).trans (or_iff_right nofun)

/-- Settles O44: a covered pixel is toggled twice by the same bit, every other pixel is left twice. -/
theorem drawingTwiceRestoresDisplay : Obligations.DrawingTwiceRestoresDisplay := by
  unfold Obligations.DrawingTwiceRestoresDisplay
  intro ox oy rows d hlen
  have hlen' : rows.length ≤ 32 := by omega
  refine Display.ext_get _ _ fun r c => ?_
  by_cases hcov : ∃ i j, i < rows.length ∧ j < 8 ∧ r % 32 = (oy.toNat + i) % 32 ∧ c % 64 = (ox.toNat + j) % 64
  · obtain ⟨i, j, hi, hj, hr, hc⟩ := hcov
    rw [Display.get_congr _ hr hc, compositeSprite_get _ _ _ _ hlen' i j hi hj,
      compositeSprite_get _ _ _ _ hlen' i j hi hj, Bool.xor_assoc, Bool.xor_self, Bool.xor_false,
      ← Display.get_congr d hr hc]
  · have hnot : ∀ i j, i < rows.length → j < 8 → ¬(r % 32 = (oy.toNat + i) % 32 ∧ c % 64 = (ox.toNat + j) % 64) :=
      fun i j hi hj hpix => hcov ⟨i, j, hi, hj, hpix⟩
    rw [compositeSprite_get_of_not_covered _ _ _ _ r c hnot, compositeSprite_get_of_not_covered _ _ _ _ r c hnot]

/-! ### DRW (R130) -/

theorem exec_drw (x y : Reg) (n : Nibble) (s : State) :
    exec (.drw x y n) s = .next ((s.setDisp (s.drawn x y n).1).setFlag (s.drawn x y n).2) := rfl

/-- Settles O41: DRW hands the compositor the bytes from `I` on, and writes its display and its collision result. -/
theorem drwComposesSprite : Obligations.DrwComposesSprite := by
  unfold Obligations.DrwComposesSprite
  intro s x y n
  refine ⟨_, s.readData n.toNat, exec_drw x y n s, s.length_readData n.toNat,
    fun k hk => s.getElem?_readData n.toNat k hk, rfl, ?_, exec_frame (exec_drw x y n s)⟩
  exact State.reg_setReg_self _ Config.flagReg _

end Sys2Proof.Machine
end

section
/-! SUPPORT. Proofs about single instructions of families 3 to C, E and F (spec/41_fam3_7_skip_imm.md, 42_fam8_alu.md,
43_fam9_C_misc.md, 45_famE_keys.md, 46_famF_misc.md): a result with a flag, a skip, and O14, O29, O30, O31, O34 to O38, O40, O46,
O47 and O50. -/

namespace Sys2Proof

theorem decodeWord_wordXK_ldImm (x : Reg) (kk : Byte) : decodeWord (wordXK 0x6 x kk) = .ldImm x kk :=
  decodeWord_encode (.ldImm x kk) rfl

end Sys2Proof

namespace Sys2Proof.Machine

/-! ### A result, then a flag (spec/42_fam8_alu.md R110) -/

theorem flagByte_decide (p : Prop) [Decidable p] : flagByte (decide p) = if p then 1 else 0 := by
  rw [flagByte]
  simp only [decide_eq_true_eq]

theorem vf_setFlag (s : State) (f : Bool) : (s.setFlag f).vf = flagByte f := s.reg_setReg_self Config.flagReg _

theorem reg_setFlag_of_ne {x : Reg} (hx : x ≠ 15) (s : State) (f : Bool) : (s.setFlag f).reg x = s.reg x := by
  rw [State.setFlag_eq, State.reg_setReg, if_neg hx]

/-- An instruction that writes a result and then a flag leaves the flag in `VF`, and the result where `x` is not 15. -/
theorem exec_writes_reg_and_flag {i : Instr} {s : State} {x : Reg} {b : Byte} {f : Bool}
    (h : exec i s = .next ((s.setReg x b).setFlag f)) :
    ∃ t, exec i s = .next t ∧ (x ≠ 15 → t.reg x = b) ∧ t.vf = flagByte f ∧ Frame [x, 15] [] s t :=
  ⟨_, h, fun hx => (reg_setFlag_of_ne hx _ f).trans (s.reg_setReg_self x b), vf_setFlag _ f,
    frame_setReg_setFlag s x b f⟩

theorem exec_addReg (x y : Reg) (s : State) : exec (.addReg x y) s =
    .next ((s.setReg x (s.reg x + s.reg y)).setFlag (carry (s.reg x) (s.reg y))) := rfl

theorem exec_sub (x y : Reg) (s : State) : exec (.sub x y) s =
    .next ((s.setReg x (s.reg x - s.reg y)).setFlag (noBorrow (s.reg x) (s.reg y))) := rfl

theorem exec_subn (x y : Reg) (s : State) : exec (.subn x y) s =
    .next ((s.setReg x (s.reg y - s.reg y)).setFlag (noBorrow (s.reg y) (s.reg y))) := rfl

theorem exec_shl (x y : Reg) (s : State) : exec (.shl x y) s =
    .next ((s.setReg x (shlFn s.shl (s.reg x) (s.reg y)).1).setFlag (shlFn s.shl (s.reg x) (s.reg y)).2) := rfl

theorem exec_shr (x : Reg) (ign : Nibble) (s : State) : exec (.shr x ign) s =
    .next ((s.setFlag (lowBit (s.reg x))).setReg x ((s.setFlag (lowBit (s.reg x))).reg x >>> 1)) := rfl

/-- Settles O34: the sum, then the carry. -/
theorem addRegSumsAndCarries : Obligations.AddRegSumsAndCarries := by
  unfold Obligations.AddRegSumsAndCarries
  intro s x y
  obtain ⟨t, h, hreg, hvf, hframe⟩ := exec_writes_reg_and_flag (exec_addReg x y s)
  refine ⟨t, h, fun hx => ?_, ?_, hframe⟩
  · rw [hreg hx, BitVec.toNat_add]
  · rw [hvf, carry, flagByte_decide]

/-- Settles O35: the difference, then the inverted borrow. -/
theorem subSubtractsAndFlagsNoBorrow : Obligations.SubSubtractsAndFlagsNoBorrow := by
  unfold Obligations.SubSubtractsAndFlagsNoBorrow
  intro s x y
  obtain ⟨t, h, hreg, hvf, hframe⟩ := exec_writes_reg_and_flag (exec_sub x y s)
  refine ⟨t, h, fun hx => ?_, ?_, hframe⟩
  · have := (s.reg y).isLt
    rw [hreg hx, BitVec.toNat_sub]
    omega
  · rw [hvf, noBorrow, flagByte_decide]

/-- What SHR leaves in `VF` when `x` is 15: the flag it wrote, shifted right, is 0 (D6). -/
theorem vf_shr_of_flagReg (s : State) : ((s.setFlag (lowBit (s.reg 15))).setReg 15
    ((s.setFlag (lowBit (s.reg 15))).reg 15 >>> 1)).vf = 0 := by
  rw [State.vf, State.reg_setReg_self, show (s.setFlag _).reg 15 = _ from vf_setFlag s _]
  cases lowBit (s.reg 15) <;> rfl

/-- What SHR leaves in `VF` when `x` is not 15: the low bit of `V[x]`. -/
theorem vf_shr_of_ne (s : State) {x : Reg} (hx : x ≠ 15) (b : Byte) :
    ((s.setFlag (lowBit (s.reg x))).setReg x b).vf = flagByte (lowBit (s.reg x)) := by
  rw [State.vf, State.reg_setReg, if_neg (Ne.symm hx)]
  exact vf_setFlag s _

theorem toNat_flagByte_lowBit (b : Byte) : (flagByte (lowBit b)).toNat = b.toNat % 2 := by
  rw [lowBit, BitVec.getLsbD, Nat.testBit_zero, flagByte_decide]
  split_ifs with h
  · exact h.symm
  · exact (Nat.mod_two_ne_one.mp h).symm

/-- Settles O36: the flag first, then `V[x]` read again and halved. -/
theorem shrShiftsOneBitOut : Obligations.ShrShiftsOneBitOut := by
  unfold Obligations.ShrShiftsOneBitOut
  intro s x ign
  refine ⟨_, exec_shr x ign s, fun hx => ⟨?_, ?_⟩, ?_, exec_frame (exec_shr x ign s)⟩
  · rw [State.reg_setReg_self, reg_setFlag_of_ne hx, BitVec.toNat_ushiftRight, Nat.shiftRight_one]
  · rw [vf_shr_of_ne s hx, toNat_flagByte_lowBit]
  · rintro rfl
    exact vf_shr_of_flagReg s

/-- Settles O37: a difference of equals, which borrows nothing. -/
theorem subnGivesZeroAndOne : Obligations.SubnGivesZeroAndOne := by
  unfold Obligations.SubnGivesZeroAndOne
  intro s x y
  obtain ⟨t, h, hreg, hvf, hframe⟩ := exec_writes_reg_and_flag (exec_subn x y s)
  refine ⟨t, h, fun hx => ?_, ?_, hframe⟩
  · rw [hreg hx, BitVec.sub_self]
    rfl
  · rw [hvf, noBorrow, flagByte_decide, if_pos (Nat.le_refl _)]

/-- Settles O38: the pair that SHL_FN gives; the default shifts left by the amount mod 8. -/
theorem shlUsesShlFn : Obligations.ShlUsesShlFn := by
  unfold Obligations.ShlUsesShlFn
  intro s x y
  obtain ⟨t, h, hreg, hvf, hframe⟩ := exec_writes_reg_and_flag (exec_shl x y s)
  refine ⟨t, h, hreg, hvf, hframe, fun hshl => ?_⟩
  rw [hshl, shlFn, defaultShl] at hreg hvf
  refine ⟨fun hx => ?_, ?_⟩
  · rw [hreg hx, BitVec.toNat_shiftLeft, Nat.shiftLeft_eq]
  · rw [hvf, flagByte_decide]

/-- Settles O14: the last write of `VF` is a flag, or in SHR with `x = 15` a flag shifted out. -/
theorem flagWritersLeaveZeroOrOne : Obligations.FlagWritersLeaveZeroOrOne := by
  unfold Obligations.FlagWritersLeaveZeroOrOne
  intro i s t hi h
  cases i with
  | addReg | sub | subn | shl | drw =>
    injection h with h
    subst h
    rw [vf_setFlag]
    exact flagByte_zero_or_one _
  | shr x ign =>
    injection (exec_shr x ign s).symm.trans h with h
    subst h
    by_cases hx : x = 15
    · subst hx
      exact .inl (vf_shr_of_flagReg s)
    · rw [vf_shr_of_ne s hx]
      exact flagByte_zero_or_one _
  | _ => nomatch hi

/-! ### Skips (R100 to R102, R125, R140, R141) -/

section
variable {i : Instr} {s : State} {c : Bool} {p : Prop} [Decidable p]

/-- A skip on a condition moves `PC` on exactly when it holds. -/
theorem exec_skips_if (h : exec i s = .next (s.skipIf c)) (hc : c = true ↔ p) :
    ∃ t, exec i s = .next t ∧ t.pc = (if p then s.pc + 2 else s.pc) ∧ Frame [] [.pc] s t := by
  refine ⟨_, h, ?_, frame_skipIf s c⟩
  rw [State.skipIf_eq, State.setPc_pc]
  exact if_congr hc rfl rfl

/-- A skip on the negation of a condition moves `PC` on exactly when the condition fails. -/
theorem exec_skips_unless (h : exec i s = .next (s.skipIf c)) (hc : c = true ↔ ¬p) :
    ∃ t, exec i s = .next t ∧ t.pc = (if p then s.pc else s.pc + 2) ∧ Frame [] [.pc] s t := by
  simpa only [ite_not] using exec_skips_if h hc

end

/-- Settles O30: each of the four is a skip on the comparison of its two operands. -/
theorem comparingSkipsMovePc : Obligations.ComparingSkipsMovePc := by
  unfold Obligations.ComparingSkipsMovePc
  exact fun s x y kk ign => ⟨exec_skips_if rfl beq_iff_eq, exec_skips_unless rfl bne_iff_ne,
    exec_skips_if rfl beq_iff_eq, exec_skips_unless rfl bne_iff_ne⟩

/-- The key a register selects is its value mod 16 (R140, D9). -/
theorem State.keyOf_eq (s : State) (x : Reg) {k : Nibble} (h : k.toNat = (s.reg x).toNat % 16) : s.keyOf x = k := by
  apply BitVec.eq_of_toNat_eq
  rw [h, State.keyOf, BitVec.extractLsb'_toNat, Nat.shiftRight_zero]

/-- Settles O46: SKP is a skip on the flag of the selected key, SKNP on its negation. -/
theorem keySkipsMovePc : Obligations.KeySkipsMovePc := by
  unfold Obligations.KeySkipsMovePc
  intro s x k hk
  have hkey := s.keyOf_eq x hk
  exact ⟨exec_skips_if rfl (by rw [hkey]), exec_skips_unless rfl (by rw [hkey, Bool.not_eq_true', Bool.not_eq_true])⟩

/-! ### JP V0, LD Vx, kk and RND -/

theorem State.toNat_regWide (s : State) (x : Reg) : (s.regWide x).toNat = (s.reg x).toNat :=
  BitVec.toNat_setWidth_of_le (by decide)

theorem exec_jpV0 (nnn : Addr12) (s : State) :
    exec (.jpV0 nnn) s = .next (s.setPc (s.regWide 0 + addrImm nnn)) := rfl

/-- Settles O29: a byte and 12 bits sum to less than 65536. -/
theorem jpV0AddsOffset : Obligations.JpV0AddsOffset := by
  unfold Obligations.JpV0AddsOffset
  intro s nnn
  have hreg := (s.reg 0).isLt
  have hnnn := nnn.isLt
  refine ⟨_, exec_jpV0 nnn s, ?_, frame_setPc s _⟩
  rw [State.setPc_pc, BitVec.toNat_add, State.toNat_regWide, toNat_addrImm]
  omega

theorem exec_ldImm (x : Reg) (kk : Byte) (s : State) : exec (.ldImm x kk) s = .next (s.setReg x kk) := rfl

/-- Settles O31: the fields of `6xkk` give LD Vx, kk, one register write after the fetch advance. -/
theorem ldImmSetsRegister : Obligations.LdImmSetsRegister := by
  unfold Obligations.LdImmSetsRegister
  refine ⟨decodeWord_wordXK_ldImm, fun s x kk => exec_writes_only_reg (exec_ldImm x kk s),
    fun s x kk hrun htick hword => ?_⟩
  rw [step_of_tick_running hrun htick, hword]
  exact ⟨_, exec_ldImm x kk _, State.reg_setReg_self _ x kk, rfl⟩

theorem exec_rnd (x : Reg) (kk : Byte) (s : State) :
    exec (.rnd x kk) s = .next (s.consumeDraw.setReg x (s.drawnByte &&& kk)) := rfl

/-- Settles O40: RND masks the byte of its one draw; the count of draws is no other instruction's destination. -/
theorem rndMasksOneDrawnByte : Obligations.RndMasksOneDrawnByte := by
  unfold Obligations.RndMasksOneDrawnByte
  refine ⟨fun s x kk => ⟨_, exec_rnd x kk s, State.reg_setReg_self _ x _, rfl, exec_frame (exec_rnd x kk s)⟩,
    fun i s t hi h => ?_⟩
  have hdraws : Part.draws ∉ destParts i := by
    cases i with
    | rnd x kk => exact absurd rfl (hi x kk)
    | _ => simp [destParts]
  exact (exec_frame h).2 .draws hdraws

/-! ### LD Vx, DT and the index arithmetic -/

theorem exec_ldVxDt (x : Reg) (s : State) : exec (.ldVxDt x) s = .next (s.setReg x s.dt) := rfl

/-- Settles O47: the value copied is the timer's at execution, after the TICK's decrement. -/
theorem ldVxDtReadsDecremented : Obligations.LdVxDtReadsDecremented := by
  unfold Obligations.LdVxDtReadsDecremented
  refine ⟨fun s x => exec_writes_only_reg (exec_ldVxDt x s), fun s x hrun htick hword => ?_⟩
  rw [step_of_tick_running hrun htick, hword]
  refine ⟨_, exec_ldVxDt x _, ?_, (State.reg_setReg_self _ x _).symm⟩
  rw [State.reg_setReg_self]
  exact countDown_toNat s.dt

theorem exec_addI (x : Reg) (s : State) : exec (.addI x) s = .next (s.setI (s.i + s.regWide x)) := rfl

theorem exec_ldF (x : Reg) (s : State) : exec (.ldF x) s = .next (s.setI (s.glyphAddr x)) := rfl

/-- Five times a byte fits 16 bits (R155, D11). -/
theorem State.toNat_glyphAddr (s : State) (x : Reg) : (s.glyphAddr x).toNat = (s.reg x).toNat * 5 := by
  have := (s.reg x).isLt
  rw [State.glyphAddr, BitVec.toNat_mul, State.toNat_regWide, show (5 : Word).toNat = 5 from rfl]
  omega

/-- Settles O50: both only set `I`, to the sum mod 65536 and to the product. -/
theorem indexArithmetic : Obligations.IndexArithmetic := by
  unfold Obligations.IndexArithmetic
  intro s x
  refine ⟨⟨_, exec_addI x s, ?_, frame_setI s _⟩, ⟨_, exec_ldF x s, s.toNat_glyphAddr x, frame_setI s _⟩⟩
  rw [State.setI_i, BitVec.toNat_add, State.toNat_regWide]

end Sys2Proof.Machine
end
